-- ==== Sys2Proof/Word.lean ====
section
/-! DEFINITION. The word types of the EBC: command words, bytes and pin masks (spec/00_scope.md R8, R11). -/

namespace Sys2Proof

/-- A command word, `cmd_word[31:0]` (30_encoding.md R80); bit 0 is the least significant bit (R8). -/
abbrev Word := BitVec 32

/-- "an 8-bit unsigned quantity, range 0–255, used uniformly for both address (0–255) and data" (R11). -/
abbrev Byte := BitVec 8

/-- A logical signal index 0–18 (R11, 10_state.md R24). -/
abbrev Pin := Fin 19

/-- A set of pins: bit k of the mask stands for pin k (R11). -/
abbrev PinMask := BitVec 19

end Sys2Proof
end

