-- ==== Sys2Proof/Syntax.lean ====
section
/-! DEFINITION. The nine commands of the EBC command set v1, one constructor for each row of the opcode table
(spec/30_encoding.md R81, R82, R84). -/

namespace Sys2Proof

/-- Electrical level of a driven line (00_scope.md R10): `high` is the bit value 1. -/
inductive Level where
  | low
  | high
  deriving DecidableEq, Repr, Inhabited

/-- The level that carries a bit (R10). -/
def Level.ofBit (b : Bool) : Level := if b then .high else .low

/-- The bit that a level carries (R10). -/
def Level.bit : Level → Bool
  | .low => false
  | .high => true

/-- PCFG's field m (R82): 0 = Input, 1 = Output. -/
inductive Mode where
  | input
  | output
  deriving DecidableEq, Repr, Inhabited

/-- The commands (R81). Operand fields are those of R82, each at its own width. -/
inductive Instr where
  /-- PCFG: configure the pins of `mask`; `init` is the level (Output) or the pull-up enable (Input). -/
  | pcfg (mask : PinMask) (mode : Mode) (init : Bool)
  /-- PSET: drive pin `pin` to `level`. -/
  | pset (pin : BitVec 5) (level : Level)
  /-- PGET: sample pin `pin`. -/
  | pget (pin : BitVec 5)
  /-- PREL: teardown. -/
  | prel
  /-- ENTW: enter WriteActive. -/
  | entw
  /-- ENTR: enter ReadActive. -/
  | entr
  /-- EXIT: return to Idle. -/
  | exit
  /-- WRB: write one byte. -/
  | wrb (addr data : Byte)
  /-- RDB: read one byte. -/
  | rdb (addr : Byte)
  deriving DecidableEq, Repr, Inhabited

end Sys2Proof
end

