-- ==== Sys2Proof/WellFormed.lean ====
section
/-! DEFINITION. Which terms of `Instr` a command word can carry: every operand is bounded by its width, and PSET and
PGET name a pin only for the indices 0–18 (spec/30_encoding.md R85, 20_memory.md R51). -/

namespace Sys2Proof

/-- "Index values 19–31 are not pins" (R51, R85). -/
def pinIndexLegal (n : BitVec 5) : Bool := decide (n.toNat ≤ 18)

/-- A command that some legal word stands for. -/
def Instr.wellFormed : Instr → Bool
  | .pcfg _ _ _ => true
  | .pset n _ => pinIndexLegal n
  | .pget n => pinIndexLegal n
  | .prel => true
  | .entw => true
  | .entr => true
  | .exit => true
  | .wrb _ _ => true
  | .rdb _ => true

end Sys2Proof
end

