-- ==== Sys2Proof/Decode.lean ====
section
/-! DEFINITION. The decode function, total on every 32-bit word (spec/30_encoding.md R83 to R88), and after it the
encoder of the same layouts. -/

namespace Sys2Proof

/-- Why a word is ILLEGAL. All three are answered alike (60_exceptions.md R166). -/
inductive DecodeReject where
  /-- The opcode is one of 0x0, 0x5–0x7, 0xD–0xF (R87). -/
  | undefinedOpcode
  /-- A bit outside the command's fields is 1 (R86). -/
  | reservedBits
  /-- A PSET or PGET whose pin index is 19–31 (R85). -/
  | notAPin
  deriving DecidableEq, Repr

/-- The opcode field, bits 31..28 (R80). -/
def opcodeOf (w : Word) : BitVec 4 := w.extractLsb' 28 4

/-- The opcodes that name a command (R81). -/
def opcodeDefined (op : BitVec 4) : Bool :=
  (0x1#4 ≤ op && op ≤ 0x4#4) || (0x8#4 ≤ op && op ≤ 0xC#4)

/-- PCFG's field m (R82). -/
def modeOf (b : Bool) : Mode := if b then .output else .input

/-- The bit of PCFG's field m (R82). -/
def modeBit : Mode → Bool
  | .input => false
  | .output => true

/-- The decode function (R88), line by line; a word that no line takes is ILLEGAL and is named by R85, R86 or R87. -/
def decode (w : Word) : Except DecodeReject Instr :=
  if w &&& 0xF3F80000#32 = 0x10000000#32 then
    .ok (.pcfg (w.extractLsb' 0 19) (modeOf (w.getLsbD 27)) (w.getLsbD 26))
  else if w &&& 0xF7FFFFE0#32 = 0x20000000#32 then
    if pinIndexLegal (w.extractLsb' 0 5) then .ok (.pset (w.extractLsb' 0 5) (.ofBit (w.getLsbD 27)))
    else .error .notAPin
  else if w &&& 0xFFFFFFE0#32 = 0x30000000#32 then
    if pinIndexLegal (w.extractLsb' 0 5) then .ok (.pget (w.extractLsb' 0 5)) else .error .notAPin
  else if w = 0x40000000#32 then .ok .prel
  else if w = 0x80000000#32 then .ok .entw
  else if w = 0x90000000#32 then .ok .entr
  else if w = 0xA0000000#32 then .ok .exit
  else if w &&& 0xFFFF0000#32 = 0xB0000000#32 then .ok (.wrb (w.extractLsb' 8 8) (w.extractLsb' 0 8))
  else if w &&& 0xFFFF00FF#32 = 0xC0000000#32 then .ok (.rdb (w.extractLsb' 8 8))
  else if opcodeDefined (opcodeOf w) then .error .reservedBits
  else .error .undefinedOpcode

/-- `legal(w)` of R88. -/
def legal (w : Word) : Bool := (decode w).toBool

/-- The host's question: the command that the decoder reads from a word of `nbits` bits numbered as the opcode table
numbers them (R8, R80: one 32-bit parallel value, bit 0 least significant, no byte order). -/
def decodeTableWord (nbits w : Nat) : Option Instr :=
  (decode (BitVec.ofNat 32 (w % 2 ^ nbits))).toOption

/-- The opcode of a command (R81). -/
def Instr.opcode : Instr → BitVec 4
  | .pcfg _ _ _ => 0x1#4
  | .pset _ _ => 0x2#4
  | .pget _ => 0x3#4
  | .prel => 0x4#4
  | .entw => 0x8#4
  | .entr => 0x9#4
  | .exit => 0xA#4
  | .wrb _ _ => 0xB#4
  | .rdb _ => 0xC#4

/-- A one-bit field at bit `k` of a word. -/
def bitAt (k : Nat) (b : Bool) : Word := (BitVec.ofBool b).setWidth 32 <<< k

/-- The command word of a command (R83, R93): the match value of its row, with each operand at its field. -/
def encode : Instr → Word
  | .pcfg p m i => 0x10000000#32 ||| bitAt 27 (modeBit m) ||| bitAt 26 i ||| p.setWidth 32
  | .pset n l => 0x20000000#32 ||| bitAt 27 l.bit ||| n.setWidth 32
  | .pget n => 0x30000000#32 ||| n.setWidth 32
  | .prel => 0x40000000#32
  | .entw => 0x80000000#32
  | .entr => 0x90000000#32
  | .exit => 0xA0000000#32
  | .wrb a d => 0xB0000000#32 ||| a.setWidth 32 <<< 8 ||| d.setWidth 32
  | .rdb a => 0xC0000000#32 ||| a.setWidth 32 <<< 8

end Sys2Proof
end

