-- ==== Sys2Proof/Config.lean ====
section
/-! DEFINITION. What an implementation fixes (spec/00_scope.md R6) and the free values (R12 `any`).

The parameters are one record of plain data. A state carries the record (`Machine.State.par`), so that a claim can
name the values it assumes (R6); no step changes it. At reset it is the opaque `Config.params`, so nothing can be
proved of the values there that the record's own types do not say. -/

namespace Sys2Proof

/-- The level of a net in a cycle (20_memory.md R55): driven or pulled to a level, or floating. -/
inductive NetLevel where
  | low
  | high
  | float
  deriving DecidableEq, Repr, Inhabited

/-- A driven level as a net level. -/
def NetLevel.ofLevel : Level → NetLevel
  | .low => .low
  | .high => .high

/-- `FLOAT_POLICY` (R6, 92_eei_decisions.md D32): what the device sees on an undriven control line. -/
inductive FloatPolicy where
  | havoc
  | inert
  deriving DecidableEq, Repr, Inhabited

/-- The OPEN parameters of R6. A count that R6, R7 or R58 bounds below by 1 is a positive number by its type; `F_CLK`,
which no rule bounds, is one by the model's choice. -/
structure Params where
  /-- `F_CLK`, Hz (D2); it enters only through the reference delays. That it is a positive whole number is a DESIGN
  CHOICE: R6 gives it no type and no bound (notes/assumptions/24.md). -/
  fClk : ℕ+
  /-- `N_SETTLE`, cycles. -/
  nSettle : ℕ+
  /-- `N_PULSE`, cycles. -/
  nPulse : ℕ+
  /-- `N_RECOVER`, cycles. -/
  nRecover : ℕ+
  /-- `N_ACCESS`, cycles. -/
  nAccess : ℕ+
  /-- How many bits `W_DLY` has beyond the least width that holds every delay (D46). -/
  wDlySlack : Nat
  /-- `FLOAT_POLICY`. -/
  floatPolicy : FloatPolicy
  /-- `D_SETUP`, cycles (D36). -/
  dSetup : Nat
  /-- `D_WP`, cycles (D36). -/
  dWp : Nat
  /-- `D_WC`, cycles; "`D_WC ≥ 1`" (20_memory.md R58). -/
  dWc : ℕ+
  /-- `D_ACC`, cycles (D36). -/
  dAcc : Nat
  /-- `MEM0`: the EEPROM contents at the start of a run (20_memory.md R63). -/
  mem0 : Vector Byte 256
  deriving DecidableEq, Repr, Inhabited

/-- The largest delay, `max N_*`. -/
def Params.maxDelay (p : Params) : Nat :=
  max (max (p.nSettle : Nat) p.nPulse) (max (p.nRecover : Nat) p.nAccess)

/-- `W_DLY` (R6, D46): every width w with `2^w − 1 ≥ max N_*` is of this form. -/
def Params.wDly (p : Params) : Nat := Nat.log2 p.maxDelay + 1 + p.wDlySlack

/-- The reference delay `ceil(0.010 × F_CLK)` of R6. No step reads it: the delays are parameters of their own (R7). -/
def Params.referenceDelay (p : Params) : Nat := ((p.fClk : Nat) + 99) / 100

/-- The parameters of the implementation, fixed and unknown. -/
opaque Config.params : Params

/-- A fixed unknown arrangement of physical pin identifiers, from which `PIN_MAP` is taken. -/
opaque Config.padOrder : Equiv.Perm Nat

/-- `PIN_MAP : Fin 19 → PhysPin` (10_state.md R23, D45), injective because it restricts a permutation. "No rule of the
EBC reads it". -/
def Config.pinMap (k : Pin) : Nat := Config.padOrder k

/-- Free value: the level the device sees under Havoc on floating control line `k` in the cycle closed by edge number
`edge`, "drawn independently per line and per cycle" (20_memory.md R60). -/
opaque Config.floatSeen : (edge k : Nat) → Level

/-- Free value: what the EBC samples at edge `edge` from net `k` when it floats (20_memory.md R55, D33). -/
opaque Config.floatSample : (edge k : Nat) → Level

/-- Free value: the level of data net `k` while both sides drive it, in the cycle closed by edge `edge` (R55, R62). -/
opaque Config.contendedNet : (edge k : Nat) → NetLevel

/-- Free value: the byte the device drives when the conditions of 20_memory.md R57 do not all hold. -/
opaque Config.deviceOut : (edge : Nat) → Byte

/-- Free value: what a bad commit at edge `edge` leaves in cell `a` (20_memory.md R58(e)). -/
opaque Config.badCommit : (edge : Nat) → (a : Byte) → Byte

end Sys2Proof
end

