-- ==== Sys2Proof/Machine/State.lean ====
section
/-! DEFINITION. The state of the machine: the EBC's registers (spec/10_state.md R20 to R32), the EEPROM device's state
(spec/20_memory.md R56), the parameters and the inputs of the coming edges. Plain data throughout. -/

namespace Sys2Proof.Machine

/-- The pull-up policy of an Input pin (R21). -/
inductive Pull where
  | none
  | up
  deriving DecidableEq, Repr, Inhabited

/-- One entry of `PINCFG` (R21): the five legal values; the encodings 010, 100 and 110 are never held (U14). -/
inductive PinCfg where
  | unclaimed
  | input (pull : Pull)
  | output (level : Level)
  deriving DecidableEq, Repr, Inhabited

/-- The pin-configuration file `PINCFG[0..18]` (R21). -/
abbrev Pins := Vector PinCfg 19

/-- `PHASE` (R25); the value 3 is never held (U14). -/
inductive Phase where
  | idle
  | writeActive
  | readActive
  deriving DecidableEq, Repr, Inhabited

/-- `SEQ` (R27): the 23 micro-states, in the order of the rule's numbering; 23–31 are never held (U14). -/
inductive Seq where
  | ready
  | pExec
  | xOe
  | xCe
  | ewCtl
  | ewAddr
  | ewData
  | ewCe
  | erData
  | erCtl
  | erAddr
  | erCe
  | erOe
  | wAddr
  | wData
  | wSettle
  | wPulse
  | wRecover
  | rAddr
  | rAccess
  | rSample
  | tCtl
  | tRel
  deriving DecidableEq, Repr, Inhabited

/-- Status codes (60_exceptions.md R160); no other code is ever produced. -/
inductive Status where
  | ok
  | illegal
  | rejected
  | aborted
  | hwfDirection
  | hwfPhase
  | hwfOwnership
  | hwfPort
  deriving DecidableEq, Repr, Inhabited

/-- The EBC's registers: the tuple of R20. (The pin file stands last so that Lean, comparing two register files, looks
at the small fields first.) -/
structure Ebc where
  /-- `PHASE` (R25). -/
  phase : Phase
  /-- `FAULT` (R26). -/
  fault : Bool
  /-- `FAULT_CAUSE` (R26): a status code; `ok` is the cleared value 0. -/
  faultCause : Status
  /-- `FAULT_PIN` (R26). -/
  faultPin : BitVec 5
  /-- `FAULT_OP` (R26). -/
  faultOp : BitVec 4
  /-- `SEQ` (R27). -/
  seq : Seq
  /-- `CNT` (R28), the value of the `W_DLY`-bit delay counter. -/
  cnt : Nat
  /-- `CMD` (R29). -/
  cmd : Word
  /-- `ABORT_LATCH` (R30). -/
  abortLatch : Bool
  /-- `ABORTING` (R30). -/
  aborting : Bool
  /-- `ADDR_R` (R31). -/
  addrR : Byte
  /-- `WDATA_R` (R31). -/
  wdataR : Byte
  /-- `RDATA_R` (R31). -/
  rdataR : Byte
  /-- `RSP_VALID` (R32). -/
  rspValid : Bool
  /-- `RSP_STATUS` (R32). -/
  rspStatus : Status
  /-- `RSP_DATA` (R32). -/
  rspData : Byte
  /-- `PINCFG` (R21). -/
  pincfg : Pins
  deriving DecidableEq, Repr

/-- The reset value of every EBC state element (70_reset_and_hazards.md R192). -/
def Ebc.reset : Ebc where
  pincfg := Vector.replicate 19 .unclaimed
  phase := .idle
  fault := false
  faultCause := .ok
  faultPin := 0
  faultOp := 0
  seq := .ready
  cnt := 0
  cmd := 0
  abortLatch := false
  aborting := false
  addrR := 0
  wdataR := 0
  rdataR := 0
  rspValid := false
  rspStatus := .ok
  rspData := 0

/-- The EEPROM array as the list of the cells that differ from `MEM0`, addresses strictly rising
(`Machine.Memory.wf`); an unlisted cell reads as `MEM0` (R63). -/
abbrev Memory := List Host.Cell

/-- The device's state (20_memory.md R56). -/
structure Device where
  /-- `WC_LEFT`: cycles left of the internal write cycle, 0 = none. -/
  wcLeft : Nat
  /-- `WC_ADDR`. -/
  wcAddr : Option Byte
  /-- `WC_DATA`. -/
  wcData : Option Byte
  /-- `WC_OK`. -/
  wcOk : Bool
  /-- `IN_PULSE`. -/
  inPulse : Bool
  /-- `P_LEN`. -/
  pLen : Nat
  /-- `P_ADDR`. -/
  pAddr : Option Byte
  /-- `P_DATA`. -/
  pData : Option Byte
  /-- `P_BAD`. -/
  pBad : Bool
  /-- `AGE_A`. -/
  ageA : Nat
  /-- `AGE_D`. -/
  ageD : Nat
  /-- `AGE_S`. -/
  ageS : Nat
  /-- `DevAddr` of the previous cycle, which R58(f) compares with. -/
  prevAddr : Option Byte
  /-- `DevData` of the previous cycle, which R58(f) compares with. -/
  prevData : Option Byte
  /-- `BUS_CONTENTION`, sticky (R62). -/
  contention : Bool
  /-- `Mem`. -/
  mem : Memory
  deriving DecidableEq, Repr

/-- The device at the start of a run: "`Mem = MEM0`, no write cycle, no pulse, ages 0, `BUS_CONTENTION = false`"
(R193). The fields that R193 does not name are DESIGN CHOICES (notes/assumptions/9.md, 8.md). -/
def Device.start : Device where
  mem := []
  wcLeft := 0
  wcAddr := none
  wcData := none
  wcOk := false
  inPulse := false
  pLen := 0
  pAddr := none
  pData := none
  pBad := false
  ageA := 0
  ageD := 0
  ageS := 0
  prevAddr := none
  prevData := none
  contention := false

/-- `rst_n` (active low, R190) over one cycle. Its fall is asynchronous, so a pulse between two edges counts; its rise
counts from the first edge that finds it 1 (R191). -/
inductive ResetIn where
  /-- 1 through the whole cycle. -/
  | high
  /-- 0 at some time in the cycle, and 1 again at the edge that closes it. -/
  | pulse
  /-- 0 at the edge that closes the cycle, whenever in the cycle, or before it, it fell. -/
  | low
  deriving DecidableEq, Repr, Inhabited

/-- What the world outside presents to the EBC in one cycle: `rst_n` over the cycle, and the other inputs as they stand
at the rising edge of `clk` that closes it. -/
structure EdgeIn where
  /-- `rst_n` (R190). -/
  rst : ResetIn
  /-- `abort`, a level (60_exceptions.md R176). -/
  abort : Bool
  /-- `cmd_valid` (30_encoding.md R89). -/
  cmdValid : Bool
  /-- `cmd_word` (R89). -/
  cmdWord : Word
  /-- `port_err` of the pad ring (40_gpio.md R104). -/
  portErr : Bool
  deriving DecidableEq, Repr

/-- The level of `rst_n` at the edge. -/
def EdgeIn.rstN (i : EdgeIn) : Bool :=
  match i.rst with
  | .high => true
  | .pulse => true
  | .low => false

/-- A cycle in which nothing is asked and nothing goes wrong. -/
def EdgeIn.idle : EdgeIn where
  rst := .high
  abort := false
  cmdValid := false
  cmdWord := 0
  portErr := false

/-- The whole machine: the EBC, the EEPROM, and what surrounds them. -/
structure State where
  /-- How many edges have been taken; it indexes the free values (notes/assumptions/6.md). -/
  tick : Nat
  /-- The inputs of the present cycle and of the coming ones; after the last entry every cycle is `EdgeIn.idle`
  (notes/assumptions/3.md). -/
  inputs : List EdgeIn
  /-- The parameters of 00_scope.md R6; no step changes them (notes/assumptions/2.md). -/
  par : Params
  /-- The EBC's registers as the edge that opened the present cycle left them; what the coming edge finds, should
  `rst_n` fall in the cycle, is `State.atEdge` (Flags.lean). -/
  ebc : Ebc
  /-- The EEPROM device. -/
  dev : Device
  deriving DecidableEq, Repr

/-- The start of a run with parameters `p`: the EBC as reset leaves it (R192), the device as R193 starts it. -/
def State.resetWith (p : Params) : State where
  par := p
  ebc := Ebc.reset
  dev := Device.start
  inputs := []
  tick := 0

/-- The machine right after reset, with the implementation's fixed and unknown parameters. -/
def State.reset : State := State.resetWith Config.params

/-- Why the model stops. The EBC itself never stops (00_scope.md R13, 70_reset_and_hazards.md R205). -/
inductive Fault where
  /-- Raised by the edge when `SEQ` is P_EXEC and `CMD` holds no pin command, or `SEQ` is X_CE and `CMD` holds none
  of EXIT, ENTW, ENTR: the spec gives no micro-operation there, because acceptance (30_encoding.md R89) never makes
  such a pair. Safe: no state that reset leads to raises it. -/
  | noMicroOperation
  deriving DecidableEq, Repr

/-- Why the model gives an instruction no meaning. -/
inductive Refusal where
  /-- Raised by `exec` for an instruction that has no meaning yet; no arm raises it. Safe. -/
  | notModelled (mnemonic : String)
  deriving DecidableEq, Repr

/-- The answer of an edge, of an instruction and of a step. -/
abbrev Result := Host.Outcome State Fault Refusal

end Sys2Proof.Machine
end

