-- ==== Sys2Proof/Machine/Operands.lean ====
section
/-! DEFINITION. Operand forms: pin sets and groups, and the placement of bits on the address and data lines
(spec/10_state.md R24, 00_scope.md R9, 42_bus_transfer.md R146). -/

namespace Sys2Proof.Machine

/-! ## Pin numbers and groups (R24) -/

/-- WE̅. -/
def pinWE : Pin := 16
/-- OE̅. -/
def pinOE : Pin := 17
/-- CE̅. -/
def pinCE : Pin := 18
/-- The net of address line A`i`. -/
def pinA (i : Fin 8) : Pin := ⟨i.val, by omega⟩
/-- The net of data line IO`i`. -/
def pinIO (i : Fin 8) : Pin := ⟨i.val + 8, by omega⟩

/-- The group ADDR. -/
def maskAddr : PinMask := 0x000FF#19
/-- The group DATA. -/
def maskData : PinMask := 0x0FF00#19
/-- The group CTRL. -/
def maskCtrl : PinMask := 0x70000#19
/-- Every pin. -/
def maskAll : PinMask := 0x7FFFF#19
/-- The set of one pin. -/
def maskPin (k : Pin) : PinMask := 1#19 <<< k.val

/-- `k ∈ M` (R11). -/
def inMask (m : PinMask) (k : Pin) : Bool := m.getLsbD k.val

/-- The lowest pin with a property, if any. -/
def lowestWhere (p : Pin → Bool) : Option Pin := (List.finRange 19).find? p

/-- `min M`, if M is not empty. -/
def lowestPin (m : PinMask) : Option Pin := lowestWhere (inMask m)

/-- A pin number in the 5-bit field `FAULT_PIN` (R26). -/
def pinField (k : Pin) : BitVec 5 := BitVec.ofNat 5 k.val

/-- "0x1F if the fault names no pin" (R26). -/
def noPin : BitVec 5 := 0x1F#5

/-- The pin of a legal pin-index operand (R84); the index is below 19 by `pinIndexLegal`. -/
def pinOfIndex (n : BitVec 5) : Pin := Fin.ofNat 19 n.toNat

/-! ## Bit placement (R146(b)) -/

/-- `zext_19(ADDR_R)`: bit i onto A`i`. -/
def onAddrLines (a : Byte) : PinMask := a.setWidth 19

/-- `zext_19(WDATA_R) << 8`: bit i onto IO`i`. -/
def onDataLines (d : Byte) : PinMask := d.setWidth 19 <<< 8

/-- `r[15:8]`: bit i from IO`i` (R142). -/
def fromDataLines (r : PinMask) : Byte := r.extractLsb' 8 8

/-! ## Pin configurations (R21) -/

/-- `PINCFG[k]`. -/
def pinAt (p : Pins) (k : Pin) : PinCfg := p[k]

/-- The configuration that `cfg` writes (40_gpio.md R101). -/
def PinCfg.make : Mode → Bool → PinCfg
  | .output, init => .output (Level.ofBit init)
  | .input, true => .input .up
  | .input, false => .input .none

/-- `Output(_)`. -/
def PinCfg.isOutput : PinCfg → Bool
  | .output _ => true
  | _ => false

/-- `Input(_)`. -/
def PinCfg.isInput : PinCfg → Bool
  | .input _ => true
  | _ => false

end Sys2Proof.Machine
end

