-- ==== Sys2Proof/Machine/Flags.lean ====
section
/-! DEFINITION. The encodings of the status fields and the outputs of the block: `status`, `pincfg`, the pad ports, the
response ports (spec/10_state.md R21, R22, R25, R27, R32, R33; 40_gpio.md R100; 60_exceptions.md R160). -/

namespace Sys2Proof.Machine

/-- The status codes (R160). -/
def Status.code : Status → BitVec 4
  | .ok => 0x0#4
  | .illegal => 0x1#4
  | .rejected => 0x2#4
  | .aborted => 0x3#4
  | .hwfDirection => 0x8#4
  | .hwfPhase => 0x9#4
  | .hwfOwnership => 0xA#4
  | .hwfPort => 0xB#4

/-- A HardwareFault: "`rsp_status[3] = 1` exactly for a HardwareFault" (R160). -/
def Status.isHardwareFault (st : Status) : Bool := st.code.getLsbD 3

/-- The encoding of `PHASE` (R25). -/
def Phase.code : Phase → BitVec 2
  | .idle => 0
  | .writeActive => 1
  | .readActive => 2

/-- The encoding of `SEQ` (R27). -/
def Seq.code : Seq → BitVec 5
  | .ready => 0
  | .pExec => 1
  | .xOe => 2
  | .xCe => 3
  | .ewCtl => 4
  | .ewAddr => 5
  | .ewData => 6
  | .ewCe => 7
  | .erData => 8
  | .erCtl => 9
  | .erAddr => 10
  | .erCe => 11
  | .erOe => 12
  | .wAddr => 13
  | .wData => 14
  | .wSettle => 15
  | .wPulse => 16
  | .wRecover => 17
  | .rAddr => 18
  | .rAccess => 19
  | .rSample => 20
  | .tCtl => 21
  | .tRel => 22

/-- Bit 0 of a `PINCFG` entry (R21). -/
def PinCfg.claimed : PinCfg → Bool
  | .unclaimed => false
  | .input _ => true
  | .output _ => true

/-- Bit 1, DIR (R21): 1 = Output. -/
def PinCfg.dir : PinCfg → Bool
  | .unclaimed => false
  | .input _ => false
  | .output _ => true

/-- Bit 2, VAL (R21): the driven level, or the pull-up enable. -/
def PinCfg.val : PinCfg → Bool
  | .unclaimed => false
  | .input .none => false
  | .input .up => true
  | .output l => l.bit

/-- The three bits of an entry (R21). -/
def PinCfg.code (c : PinCfg) : BitVec 3 :=
  BitVec.ofBool c.val ++ BitVec.ofBool c.dir ++ BitVec.ofBool c.claimed

/-- Output `pincfg[56:0]` (R22): entry k on bits [3k+2:3k]. -/
def pincfgWord (p : Pins) : BitVec 57 :=
  BitVec.ofNat 57 (p.toList.foldr (fun c acc => acc * 8 + c.code.toNat) 0)

/-! ## The pad multiplexer (R100) -/

/-- `pad_sel`. -/
def PinCfg.padSel (c : PinCfg) : Bool := c.claimed
/-- `pad_oe`. -/
def PinCfg.padOe (c : PinCfg) : Bool := c.claimed && c.dir
/-- `pad_o`. -/
def PinCfg.padO (c : PinCfg) : Bool := c.claimed && c.dir && c.val
/-- `pad_pu`. -/
def PinCfg.padPu (c : PinCfg) : Bool := c.claimed && !c.dir && c.val

/-! ## The status word (R33) -/

/-- BUSY: "1 iff `SEQ ≠ READY`" (R33). -/
def Ebc.busy (e : Ebc) : Bool := e.seq != .ready

/-- Output `status[31:0]` (R33): PHASE [1:0], BUSY [2], FAULT [3], FAULT_CAUSE [7:4], FAULT_PIN [12:8],
ABORT_LATCH [13], FAULT_OP [17:14], 0 above. -/
def statusWord (e : Ebc) : BitVec 32 :=
  e.phase.code.setWidth 32 ||| bitAt 2 e.busy ||| bitAt 3 e.fault ||| e.faultCause.code.setWidth 32 <<< 4
    ||| e.faultPin.setWidth 32 <<< 8 ||| bitAt 13 e.abortLatch ||| e.faultOp.setWidth 32 <<< 14

/-! ## The output ports -/

/-- The levels of one pad output of all 19 pins. -/
def padBus (out : PinCfg → Bool) (p : Pins) : PinMask := BitVec.ofFnLE fun k : Pin => out (pinAt p k)

/-- The block's output ports at one moment. -/
structure Outputs where
  /-- `cmd_ready` (R35). -/
  cmdReady : Bool
  /-- `rsp_valid` (R32). -/
  rspValid : Bool
  /-- `rsp_status[3:0]` (R32). -/
  rspStatus : BitVec 4
  /-- `rsp_data[7:0]` (R32). -/
  rspData : Byte
  /-- `status[31:0]` (R33). -/
  status : BitVec 32
  /-- `pincfg[56:0]` (R22). -/
  pincfg : BitVec 57
  /-- `pad_sel` (40_gpio.md R100). -/
  padSel : PinMask
  /-- `pad_oe` (R100). -/
  padOe : PinMask
  /-- `pad_o` (R100). -/
  padO : PinMask
  /-- `pad_pu` (R100). -/
  padPu : PinMask
  deriving DecidableEq, Repr

/-- The ports are functions of the registers, `cmd_ready` of the inputs `abort` and `rst_n` too: it is
`(SEQ = READY) ∧ (abort = 0) ∧ (rst_n = 1)` (R35). -/
def Ebc.outputs (e : Ebc) (abort rstN : Bool) : Outputs where
  cmdReady := e.seq == .ready && !abort && rstN
  rspValid := e.rspValid
  rspStatus := e.rspStatus.code
  rspData := e.rspData
  status := statusWord e
  pincfg := pincfgWord e.pincfg
  padSel := padBus PinCfg.padSel e.pincfg
  padOe := padBus PinCfg.padOe e.pincfg
  padO := padBus PinCfg.padO e.pincfg
  padPu := padBus PinCfg.padPu e.pincfg

/-! ## One cycle: inputs, registers, outputs -/

/-- What is presented in the present cycle. -/
def State.input (s : State) : EdgeIn := s.inputs.headD EdgeIn.idle

/-- The EBC's registers as the edge that closes the present cycle finds them: at their reset values if `rst_n` has been
0 in the cycle, "as soon as `rst_n` falls, without waiting for an edge" (70_reset_and_hazards.md R190). -/
def State.atEdge (s : State) : Ebc :=
  match s.input.rst with
  | .high => s.ebc
  | .pulse => Ebc.reset
  | .low => Ebc.reset

/-- Output `cmd_ready` at the edge that closes the present cycle (R35). -/
def State.cmdReady (s : State) : Bool := s.atEdge.seq == .ready && !s.input.abort && s.input.rstN

/-- The moments of a cycle that a fall of `rst_n` tells apart. -/
inductive Moment where
  /-- The opening of the cycle, before any fall. -/
  | opening
  /-- Any time at which `rst_n` is 0. -/
  | inReset
  /-- The edge that closes the cycle. -/
  | closing
  deriving DecidableEq, Repr

/-- The output ports at a moment of the present cycle, `abort` at the level it has at the closing edge. -/
def State.outputs (s : State) : Moment → Outputs
  | .opening => s.ebc.outputs s.input.abort true
  | .inReset => Ebc.reset.outputs s.input.abort false
  | .closing => s.atEdge.outputs s.input.abort s.input.rstN

end Sys2Proof.Machine
end

