-- ==== Sys2Proof/Machine/Ops.lean ====
section
/-! DEFINITION. The named operations: over the EEPROM array, over the pins (the primitives `cfg`, `set`, `get`), over
the response registers; the fault entry and the ways back from it. -/

namespace Sys2Proof.Machine

/-! ## The EEPROM array (20_memory.md R50, R63) -/

/-- What a cell reads as that nothing has written: `MEM0` (R63). -/
def unlisted (mem0 : Vector Byte 256) (a : Byte) : Byte := mem0[a.toNat]'a.isLt

/-- The listed value of a cell, if it is listed. -/
def lookup : Memory → Nat → Option Byte
  | [], _ => none
  | (k, v) :: m, a => if k = a then some v else lookup m a

/-- `Mem[a]`. -/
def memRead (mem0 : Vector Byte 256) (m : Memory) (a : Byte) : Byte :=
  (lookup m a.toNat).getD (unlisted mem0 a)

/-- List the value `v` for cell `a`, keeping the addresses rising. -/
def listCell : Memory → Nat → Byte → Memory
  | [], a, v => [(a, v)]
  | (k, w) :: m, a, v =>
    if a < k then (a, v) :: (k, w) :: m
    else if k = a then (a, v) :: m
    else (k, w) :: listCell m a v

/-- Take cell `a` off the list. -/
def unlistCell : Memory → Nat → Memory
  | [], _ => []
  | (k, w) :: m, a => if k = a then m else (k, w) :: unlistCell m a

/-- `Mem[a] <- v`; a cell that holds what an unlisted one reads as is not listed. -/
def memWrite (mem0 : Vector Byte 256) (m : Memory) (a : Byte) (v : Byte) : Memory :=
  if v = unlisted mem0 a then unlistCell m a.toNat else listCell m a.toNat v

/-- `Mem[j] <- f j` for every j. -/
def memFill (mem0 : Vector Byte 256) (f : Byte → Byte) : Memory :=
  (List.range 256).filterMap fun a =>
    if f (BitVec.ofNat 8 a) = unlisted mem0 (BitVec.ofNat 8 a) then none
    else some (a, f (BitVec.ofNat 8 a))

/-- The canonical form: addresses of the space, strictly rising, and no entry equal to what an unlisted cell reads. -/
abbrev Memory.wf (mem0 : Vector Byte 256) (m : Memory) : Prop :=
  m.Pairwise (fun x y => x.1 < y.1) ∧
    ∀ c ∈ m, c.1 < 256 ∧ c.2 ≠ unlisted mem0 (BitVec.ofNat 8 c.1)

/-- `Mem[a]` of the machine. -/
def State.cell (s : State) (a : Byte) : Byte := memRead s.par.mem0 s.dev.mem a

/-! ## Responses (30_encoding.md R91) -/

/-- `respond(st, d)`. -/
def Ebc.respond (e : Ebc) (st : Status) (d : Byte) : Ebc :=
  { e with rspValid := true, rspStatus := st, rspData := d }

/-- Completion of a command: `respond(OK, d); SEQ <- READY`. -/
def Ebc.complete (e : Ebc) (d : Byte) : Ebc := { e.respond .ok d with seq := .ready }

/-! ## Fault entry (60_exceptions.md R171) -/

/-- `raise HardwareFault(cause, pin)`: the record, `CNT <- 0`, the response, `SEQ <- READY`, nothing else. The opcode
is that of `CMD`, which acceptance has latched by then. -/
def Ebc.raiseFault (e : Ebc) (cause : Status) (pin : BitVec 5) : Ebc :=
  { e.respond cause 0 with
    fault := true, faultCause := cause, faultPin := pin, faultOp := opcodeOf e.cmd, cnt := 0, seq := .ready }

/-! ## Teardown, the way back from a fault (40_gpio.md R108, 60_exceptions.md R173) -/

/-- T_CTL on one pin: a control line that is Output is set High, "no check, no port_err". -/
def deassertControl (k : Pin) (c : PinCfg) : PinCfg :=
  if inMask maskCtrl k && c.isOutput then .output .high else c

/-- Every control line that is Output at High, every other pin as it is. -/
def deassertControls (p : Pins) : Pins := Vector.ofFn fun k : Pin => deassertControl k (pinAt p k)

/-- Every pin Unclaimed. -/
def releasedPins : Pins := Vector.replicate 19 .unclaimed

/-- T_CTL (R108). -/
def Ebc.teardownControls (e : Ebc) : Ebc := { e with pincfg := deassertControls e.pincfg, seq := .tRel }

/-- T_REL (R108): every pin released, `PHASE`, the fault record and `ABORTING` cleared, OK or ABORTED. -/
def Ebc.teardownRelease (e : Ebc) : Ebc :=
  { e.respond (if e.aborting then .aborted else .ok) 0 with
    pincfg := releasedPins
    phase := .idle
    fault := false, faultCause := .ok, faultPin := 0, faultOp := 0
    aborting := false
    seq := .ready }

/-- The abort entry (60_exceptions.md R176): from any micro-state to T_CTL. -/
def Ebc.abortEntry (e : Ebc) : Ebc :=
  { e with abortLatch := true, aborting := true, cnt := 0, seq := .tCtl }

/-! ## Pin primitives (40_gpio.md R101 to R104) -/

/-- A HardwareFault as a pin primitive raises it: a cause and the pin it names. -/
structure PinFault where
  cause : Status
  pin : Pin
  deriving DecidableEq, Repr

/-- "if M != {} and port_err = 1: raise HardwareFault(HWF_PORT, min M)" (R101 to R103). -/
def portFault (m : PinMask) (portErr : Bool) : Option PinFault :=
  if portErr then (lowestPin m).map (PinFault.mk .hwfPort) else none

/-- The direction check: the lowest pin of M that does not have the wanted direction (R102, R103). -/
def directionFault (m : PinMask) (wanted : PinCfg → Bool) (p : Pins) : Option PinFault :=
  (lowestWhere fun k => inMask m k && !wanted (pinAt p k)).map (PinFault.mk .hwfDirection)

/-- Every pin of M configured, on one edge (R101). -/
def configurePins (m : PinMask) (mode : Mode) (init : Bool) (p : Pins) : Pins :=
  Vector.ofFn fun k : Pin => if inMask m k then PinCfg.make mode init else pinAt p k

/-- Every pin of M driven to its bit of v, on one edge (R102). -/
def drivePins (m v : PinMask) (p : Pins) : Pins :=
  Vector.ofFn fun k : Pin => if inMask m k then .output (Level.ofBit (inMask v k)) else pinAt p k

/-- The sampled bits of M, 0 elsewhere (R103). -/
def samplePins (m : PinMask) (sample : Pin → Bool) : PinMask :=
  BitVec.ofFnLE fun k : Pin => inMask m k && sample k

/-- `cfg(M, mode, init)` (R101). -/
def cfgPins (m : PinMask) (mode : Mode) (init : Bool) (portErr : Bool) (p : Pins) : Except PinFault Pins :=
  match portFault m portErr with
  | some f => .error f
  | none => .ok (configurePins m mode init p)

/-- `set(M, v)` (R102); the direction check comes before the port check (R104). -/
def setPins (m v : PinMask) (portErr : Bool) (p : Pins) : Except PinFault Pins :=
  match directionFault m PinCfg.isOutput p with
  | some f => .error f
  | none =>
    match portFault m portErr with
    | some f => .error f
    | none => .ok (drivePins m v p)

/-- `get(M)` (R103), where `sample k` is what sampling net k gives. -/
def getPins (m : PinMask) (portErr : Bool) (sample : Pin → Bool) (p : Pins) : Except PinFault PinMask :=
  match directionFault m PinCfg.isInput p with
  | some f => .error f
  | none =>
    match portFault m portErr with
    | some f => .error f
    | none => .ok (samplePins m sample)

/-- Go on with a primitive's result, or take its fault: "A fault ends the action at that point" (30_encoding.md R92). -/
def Ebc.afterPins {α : Type} (e : Ebc) (r : Except PinFault α) (k : α → Ebc) : Ebc :=
  match r with
  | .ok a => k a
  | .error f => e.raiseFault f.cause (pinField f.pin)

end Sys2Proof.Machine
end

