-- ==== Sys2Proof/Machine/Accept.lean ====
section
/-! DEFINITION. Acceptance of a command word (spec/30_encoding.md R89, R90), one definition for each command. Every
definition acts on the registers after `CMD` has latched the word. -/

namespace Sys2Proof.Machine

/-- `CMD <- w` (R89). -/
def Ebc.latch (e : Ebc) (w : Word) : Ebc := { e with cmd := w }

/-- An ILLEGAL word (60_exceptions.md R166): `respond(ILLEGAL, 0)`, `SEQ` stays READY. -/
def Ebc.answerIllegal (e : Ebc) : Ebc := { e.respond .illegal 0 with seq := .ready }

/-- The checks that every command passes first, in the order of R90: legality, then the fault flag (60_exceptions.md
R166, R167). -/
def Ebc.passChecks (e : Ebc) (isLegal : Bool) (go : Ebc → Ebc) : Ebc :=
  if !isLegal then e.answerIllegal
  else if e.fault then { e.respond .rejected 0 with seq := .ready }
  else go e

/-- PCFG, PSET and PGET: HWF_OWNERSHIP while a phase owns the bus (60_exceptions.md R164), else to P_EXEC. -/
def Ebc.toPinExec (e : Ebc) : Ebc :=
  if e.phase = .idle then { e with seq := .pExec } else e.raiseFault .hwfOwnership noPin

/-- ENTW, ENTR and EXIT from an active phase start with X_OE (41_bus_phase.md R123, R124). -/
def Ebc.toPhaseChange (e : Ebc) (fromIdle : Ebc → Ebc) : Ebc :=
  if e.phase = .idle then fromIdle e else { e with seq := .xOe }

/-- Acceptance of PCFG (40_gpio.md R105). -/
def acceptPcfg (_p : PinMask) (_m : Mode) (_i : Bool) (e : Ebc) : Ebc := e.passChecks true Ebc.toPinExec

/-- Acceptance of PSET (40_gpio.md R106); pin indices 19–31 are ILLEGAL (30_encoding.md R85). -/
def acceptPset (n : BitVec 5) (_l : Level) (e : Ebc) : Ebc := e.passChecks (pinIndexLegal n) Ebc.toPinExec

/-- Acceptance of PGET (40_gpio.md R107); pin indices 19–31 are ILLEGAL (30_encoding.md R85). -/
def acceptPget (n : BitVec 5) (e : Ebc) : Ebc := e.passChecks (pinIndexLegal n) Ebc.toPinExec

/-- Acceptance of PREL (40_gpio.md R108): "always accepted when legal: in every phase, and also when `FAULT = 1`". -/
def acceptPrel (e : Ebc) : Ebc := { e with seq := .tCtl }

/-- Acceptance of ENTW (41_bus_phase.md R121). -/
def acceptEntw (e : Ebc) : Ebc := e.passChecks true fun e => e.toPhaseChange fun e => { e with seq := .ewCtl }

/-- Acceptance of ENTR (41_bus_phase.md R122). -/
def acceptEntr (e : Ebc) : Ebc := e.passChecks true fun e => e.toPhaseChange fun e => { e with seq := .erData }

/-- Acceptance of EXIT (41_bus_phase.md R123): while IDLE it completes at once. -/
def acceptExit (e : Ebc) : Ebc := e.passChecks true fun e => e.toPhaseChange fun e => e.complete 0

/-- Acceptance of WRB (42_bus_transfer.md R141): HWF_PHASE outside WRITE_ACTIVE (60_exceptions.md R163). -/
def acceptWrb (a d : Byte) (e : Ebc) : Ebc :=
  e.passChecks true fun e =>
    if e.phase = .writeActive then { e with addrR := a, wdataR := d, seq := .wAddr }
    else e.raiseFault .hwfPhase noPin

/-- Acceptance of RDB (42_bus_transfer.md R142): HWF_PHASE outside READ_ACTIVE (60_exceptions.md R163). -/
def acceptRdb (a : Byte) (e : Ebc) : Ebc :=
  e.passChecks true fun e =>
    if e.phase = .readActive then { e with addrR := a, seq := .rAddr }
    else e.raiseFault .hwfPhase noPin

/-- Acceptance of a command. -/
def acceptInstr (i : Instr) (e : Ebc) : Ebc :=
  match i with
  | .pcfg p m b => acceptPcfg p m b e
  | .pset n l => acceptPset n l e
  | .pget n => acceptPget n e
  | .prel => acceptPrel e
  | .entw => acceptEntw e
  | .entr => acceptEntr e
  | .exit => acceptExit e
  | .wrb a d => acceptWrb a d e
  | .rdb a => acceptRdb a e

/-- `accept(w)` (R89). -/
def accept (w : Word) (e : Ebc) : Ebc :=
  match decode w with
  | .ok i => acceptInstr i (e.latch w)
  | .error _ => (e.latch w).answerIllegal

end Sys2Proof.Machine
end

