-- ==== Sys2Proof/Machine/Device.lean ====
section
/-! DEFINITION. The nets and the EEPROM device (spec/20_memory.md R55 to R62). Every definition is a function of the
state during one cycle, which the next edge closes; that edge's number is `tick`. The pads are taken "as they stand
after the edge that opened the cycle" (R55), in the cycle in which `rst_n` falls too (notes/assumptions/5.md). -/

namespace Sys2Proof.Machine

/-- The configuration of pin k after the edge that opened the cycle (R55). -/
def State.pin (s : State) (k : Pin) : PinCfg := pinAt s.ebc.pincfg k

/-- The level of a net on which the device drives nothing (R55). -/
def passiveNet (c : PinCfg) : NetLevel :=
  if c.padOe then (if c.padO then .high else .low)
  else if c.padPu then .high
  else .float

/-! ## What the device sees -/

/-- `cl(k)` (R56, R60). -/
def State.controlSeen (s : State) (k : Pin) : Level :=
  match passiveNet (s.pin k) with
  | .low => .low
  | .high => .high
  | .float =>
    match s.par.floatPolicy with
    | .inert => .high
    | .havoc => Config.floatSeen s.tick k.val

/-- Control line k is seen Low. -/
def State.seenLow (s : State) (k : Pin) : Bool := s.controlSeen k == .low

/-- A byte from eight nets, if none floats: `[net i = High]·2^i` (R56). -/
def byteOfNets (net : Fin 8 → NetLevel) : Option Byte :=
  if (List.finRange 8).any (fun i => net i == .float) then none
  else some (BitVec.ofFnLE fun i => net i == .high)

/-- `DevAddr` (R56). -/
def State.devAddr (s : State) : Option Byte := byteOfNets fun i => passiveNet (s.pin (pinA i))

/-- `DevDrives` (R57). -/
def State.devDrives (s : State) : Bool := s.seenLow pinCE && s.seenLow pinOE && !s.seenLow pinWE

/-- An age through the current cycle (R58(f)). -/
def ageOf (now prev : Option Byte) (age : Nat) : Nat :=
  match now with
  | none => 0
  | some _ => if now = prev then age + 1 else 1

/-- `AGE_A` through the current cycle. -/
def State.ageANow (s : State) : Nat := ageOf s.devAddr s.dev.prevAddr s.dev.ageA

/-- `AGE_S` through the current cycle. -/
def State.ageSNow (s : State) : Nat := if s.seenLow pinCE && s.seenLow pinOE then s.dev.ageS + 1 else 0

/-- `DevOut` (R57): `MemRead`, under its conditions, and otherwise any byte. -/
def State.devOut (s : State) : Byte :=
  match s.devAddr with
  | some a =>
    if !s.dev.inPulse && s.dev.wcLeft == 0 && s.par.dAcc ≤ s.ageANow && s.par.dAcc ≤ s.ageSNow then s.cell a
    else Config.deviceOut s.tick
  | none => Config.deviceOut s.tick

/-! ## Net levels (R55) -/

/-- `Line(k)` of an address or control net: the device never drives it. `Line(k)` of a data net: the device may. -/
def State.line (s : State) (k : Pin) : NetLevel :=
  if inMask maskData k && s.devDrives then
    if (s.pin k).padOe then Config.contendedNet s.tick k.val
    else if s.devOut.getLsbD (k.val - 8) then .high else .low
  else passiveNet (s.pin k)

/-- What the EBC samples from net k (R103): a floating net reads any level, drawn at this sample. -/
def State.sample (s : State) (k : Pin) : Bool :=
  match s.line k with
  | .low => false
  | .high => true
  | .float => (Config.floatSample s.tick k.val).bit

/-- `DevData` (R56). -/
def State.devData (s : State) : Option Byte := byteOfNets fun i => s.line (pinIO i)

/-- `AGE_D` through the current cycle (R58(f)). -/
def State.ageDNow (s : State) : Nat := ageOf s.devData s.dev.prevData s.dev.ageD

/-- Both sides drive some data line (R62, R58(g)). -/
def State.contends (s : State) : Bool :=
  s.devDrives && (List.finRange 8).any fun i => (s.pin (pinIO i)).padOe

/-! ## The device's edge (R58) -/

/-- A write pulse is on in this cycle: WE̅ and CE̅ both seen Low. -/
def State.pulseOn (s : State) : Bool := s.seenLow pinWE && s.seenLow pinCE

/-- The array after `commit()` (R58(e)): `MemWrite`, or a bad commit to one cell, or to every cell. -/
def Device.commitMem (d : Device) (mem0 : Vector Byte 256) (tick : Nat) : Memory :=
  match d.wcAddr with
  | some a =>
    memWrite mem0 d.mem a
      (match d.wcOk, d.wcData with
        | true, some v => v
        | _, _ => Config.badCommit tick a)
  | none => memFill mem0 (Config.badCommit tick)

/-- `commit()` (R58(e)). -/
def Device.commit (d : Device) (mem0 : Vector Byte 256) (tick : Nat) : Device :=
  { d with mem := d.commitMem mem0 tick }

/-- R58(a): the internal write cycle counts down and commits when it ends. -/
def State.devWriteCycle (s : State) : Device :=
  if s.dev.wcLeft = 0 then s.dev
  else
    let d := { s.dev with wcLeft := s.dev.wcLeft - 1 }
    if s.dev.wcLeft = 1 then d.commit s.par.mem0 s.tick else d

/-- R58(b): a pulse starts, unless a write cycle is running. -/
def State.devPulseStart (s : State) (d : Device) : Device :=
  if s.dev.wcLeft = 0 then
    { d with
      inPulse := true
      pLen := 1
      pAddr := s.devAddr
      pData := s.devData
      pBad := s.seenLow pinOE || decide (s.dev.ageA < s.par.dSetup) || decide (s.dev.ageD < s.par.dSetup) }
  else d

/-- R58(c): a pulse goes on. -/
def State.devPulseBody (s : State) (d : Device) : Device :=
  { d with
    pLen := s.dev.pLen + 1
    pAddr := if s.devAddr = s.dev.pAddr then s.dev.pAddr else none
    pData := s.devData
    pBad := s.dev.pBad || decide (s.devData ≠ s.dev.pData) || s.seenLow pinOE }

/-- R58(d): a pulse ends, and the write cycle starts or, if it is one cycle long, commits at once. -/
def State.devPulseEnd (s : State) (d : Device) : Device :=
  let d' := { d with
    inPulse := false
    wcAddr := s.dev.pAddr
    wcData := s.dev.pData
    wcOk := !s.dev.pBad && decide (s.par.dWp ≤ s.dev.pLen) && s.dev.pData.isSome }
  if (s.par.dWc : Nat) = 1 then d'.commit s.par.mem0 s.tick
  else { d' with wcLeft := (s.par.dWc : Nat) - 1 }

/-- R58(b) to (d): what the pulse does at this edge. -/
def State.devPulse (s : State) (d : Device) : Device :=
  match s.dev.inPulse, s.pulseOn with
  | false, false => d
  | false, true => s.devPulseStart d
  | true, true => s.devPulseBody d
  | true, false => s.devPulseEnd d

/-- The device's state after the edge that closes the present cycle (R58). -/
def State.devStep (s : State) : Device :=
  { s.devPulse s.devWriteCycle with
    ageA := s.ageANow
    ageD := s.ageDNow
    ageS := s.ageSNow
    prevAddr := s.devAddr
    prevData := s.devData
    contention := s.dev.contention || s.contends }

end Sys2Proof.Machine
end

