-- ==== Sys2Proof/Machine/Micro.lean ====
section
/-! DEFINITION. The micro-states of the sequencer, one definition each (spec/10_state.md R27): what each does to the
EBC's registers on its edge. The teardown micro-states T_CTL and T_REL are `Ebc.teardownControls` and
`Ebc.teardownRelease` of Ops.lean. -/

namespace Sys2Proof.Machine

/-- What a micro-state reads besides the EBC's own registers. -/
structure EdgeCtx where
  /-- The delay parameters (00_scope.md R6). -/
  par : Params
  /-- `port_err` at this edge (40_gpio.md R104). -/
  portErr : Bool
  /-- What sampling each net gives at this edge (40_gpio.md R103). -/
  sample : Pin → Bool

/-! ## Pin commands (40_gpio.md R105 to R107) -/

/-- PCFG at P_EXEC (R105). -/
def pcfgExec (p : PinMask) (m : Mode) (i : Bool) (x : EdgeCtx) (e : Ebc) : Ebc :=
  e.afterPins (cfgPins p m i x.portErr e.pincfg) fun pins => { e with pincfg := pins }.complete 0

/-- PSET at P_EXEC (R106). -/
def psetExec (n : BitVec 5) (l : Level) (x : EdgeCtx) (e : Ebc) : Ebc :=
  let k := pinOfIndex n
  e.afterPins (setPins (maskPin k) (if l = .high then maskPin k else 0) x.portErr e.pincfg) fun pins =>
    { e with pincfg := pins }.complete 0

/-- PGET at P_EXEC (R107): `rsp_data[0]` is the level, `rsp_data[7:1] = 0`. -/
def pgetExec (n : BitVec 5) (x : EdgeCtx) (e : Ebc) : Ebc :=
  let k := pinOfIndex n
  e.afterPins (getPins (maskPin k) x.portErr x.sample e.pincfg) fun r =>
    e.complete ((BitVec.ofBool (inMask r k)).setWidth 8)

/-- P_EXEC performs the pin command in `CMD`; no other command is ever there. -/
def pExec (x : EdgeCtx) (e : Ebc) : Option Ebc :=
  match decode e.cmd with
  | .ok (.pcfg p m i) => some (pcfgExec p m i x e)
  | .ok (.pset n l) => some (psetExec n l x e)
  | .ok (.pget n) => some (pgetExec n x e)
  | _ => none

/-! ## Leaving a phase (41_bus_phase.md R123, R124) -/

/-- X_OE: `set({OE}, 1 << 17)`. -/
def xOe (x : EdgeCtx) (e : Ebc) : Ebc :=
  e.afterPins (setPins (maskPin pinOE) (maskPin pinOE) x.portErr e.pincfg) fun pins =>
    { e with pincfg := pins, seq := .xCe }

/-- Where X_CE goes on: completion for EXIT, the entry sequence for ENTW and ENTR (R123, R124). -/
def xCeNext (e : Ebc) : Option Ebc :=
  if opcodeOf e.cmd = 0xA#4 then some (e.complete 0)
  else if opcodeOf e.cmd = 0x8#4 then some { e with seq := .ewCtl }
  else if opcodeOf e.cmd = 0x9#4 then some { e with seq := .erData }
  else none

/-- X_CE: `set({CE}, 1 << 18)`, `PHASE <- IDLE`, then on by `CMD[31:28]`. -/
def xCe (x : EdgeCtx) (e : Ebc) : Option Ebc :=
  match setPins (maskPin pinCE) (maskPin pinCE) x.portErr e.pincfg with
  | .ok pins => xCeNext { e with pincfg := pins, phase := .idle }
  | .error f => some (e.raiseFault f.cause (pinField f.pin))

/-! ## Entering WriteActive (41_bus_phase.md R121) -/

/-- EW_CTL: all control lines Output High. -/
def ewCtl (x : EdgeCtx) (e : Ebc) : Ebc :=
  e.afterPins (cfgPins maskCtrl .output true x.portErr e.pincfg) fun pins =>
    { e with pincfg := pins, seq := .ewAddr }

/-- EW_ADDR: A0–A7 Output Low. -/
def ewAddr (x : EdgeCtx) (e : Ebc) : Ebc :=
  e.afterPins (cfgPins maskAddr .output false x.portErr e.pincfg) fun pins =>
    { e with pincfg := pins, seq := .ewData }

/-- EW_DATA: IO0–IO7 Output Low. -/
def ewData (x : EdgeCtx) (e : Ebc) : Ebc :=
  e.afterPins (cfgPins maskData .output false x.portErr e.pincfg) fun pins =>
    { e with pincfg := pins, seq := .ewCe }

/-- EW_CE: CE̅ Output Low, `PHASE <- WRITE_ACTIVE`, complete. -/
def ewCe (x : EdgeCtx) (e : Ebc) : Ebc :=
  e.afterPins (cfgPins (maskPin pinCE) .output false x.portErr e.pincfg) fun pins =>
    { e with pincfg := pins, phase := .writeActive }.complete 0

/-! ## Entering ReadActive (41_bus_phase.md R122) -/

/-- ER_DATA: IO0–IO7 Input PullUp. -/
def erData (x : EdgeCtx) (e : Ebc) : Ebc :=
  e.afterPins (cfgPins maskData .input true x.portErr e.pincfg) fun pins =>
    { e with pincfg := pins, seq := .erCtl }

/-- ER_CTL: all control lines Output High. -/
def erCtl (x : EdgeCtx) (e : Ebc) : Ebc :=
  e.afterPins (cfgPins maskCtrl .output true x.portErr e.pincfg) fun pins =>
    { e with pincfg := pins, seq := .erAddr }

/-- ER_ADDR: A0–A7 Output Low. -/
def erAddr (x : EdgeCtx) (e : Ebc) : Ebc :=
  e.afterPins (cfgPins maskAddr .output false x.portErr e.pincfg) fun pins =>
    { e with pincfg := pins, seq := .erCe }

/-- ER_CE: CE̅ Output Low. -/
def erCe (x : EdgeCtx) (e : Ebc) : Ebc :=
  e.afterPins (cfgPins (maskPin pinCE) .output false x.portErr e.pincfg) fun pins =>
    { e with pincfg := pins, seq := .erOe }

/-- ER_OE: OE̅ Output Low, `PHASE <- READ_ACTIVE`, complete. -/
def erOe (x : EdgeCtx) (e : Ebc) : Ebc :=
  e.afterPins (cfgPins (maskPin pinOE) .output false x.portErr e.pincfg) fun pins =>
    { e with pincfg := pins, phase := .readActive }.complete 0

/-! ## The delay counter (42_bus_transfer.md R140) -/

/-- `CNT - 1` in `W_DLY` bits, unsigned. It is never applied at 0 (R146(a)). -/
def cntPred (par : Params) (c : Nat) : Nat := if c = 0 then 2 ^ par.wDly - 1 else c - 1

/-- A delay state with successor action `act` (R140). -/
def delayState (par : Params) (act : Ebc → Ebc) (e : Ebc) : Ebc :=
  if e.cnt = 1 then act e else { e with cnt := cntPred par e.cnt }

/-! ## The byte write (42_bus_transfer.md R141) -/

/-- W_ADDR: bit i of the address onto A`i`. -/
def wAddr (x : EdgeCtx) (e : Ebc) : Ebc :=
  e.afterPins (setPins maskAddr (onAddrLines e.addrR) x.portErr e.pincfg) fun pins =>
    { e with pincfg := pins, seq := .wData }

/-- W_DATA: bit i of the data onto IO`i`, `CNT <- N_SETTLE`. -/
def wData (x : EdgeCtx) (e : Ebc) : Ebc :=
  e.afterPins (setPins maskData (onDataLines e.wdataR) x.portErr e.pincfg) fun pins =>
    { e with pincfg := pins, cnt := x.par.nSettle, seq := .wSettle }

/-- W_SETTLE: after N_SETTLE edges WE̅ goes Low, `CNT <- N_PULSE`. -/
def wSettle (x : EdgeCtx) (e : Ebc) : Ebc :=
  delayState x.par (fun e =>
    e.afterPins (setPins (maskPin pinWE) 0 x.portErr e.pincfg) fun pins =>
      { e with pincfg := pins, cnt := x.par.nPulse, seq := .wPulse }) e

/-- W_PULSE: after N_PULSE edges WE̅ goes High, `CNT <- N_RECOVER`. -/
def wPulse (x : EdgeCtx) (e : Ebc) : Ebc :=
  delayState x.par (fun e =>
    e.afterPins (setPins (maskPin pinWE) (maskPin pinWE) x.portErr e.pincfg) fun pins =>
      { e with pincfg := pins, cnt := x.par.nRecover, seq := .wRecover }) e

/-- W_RECOVER: after N_RECOVER edges the command completes. -/
def wRecover (x : EdgeCtx) (e : Ebc) : Ebc :=
  delayState x.par (fun e => { e with cnt := 0 }.complete 0) e

/-! ## The byte read (42_bus_transfer.md R142) -/

/-- R_ADDR: bit i of the address onto A`i`, `CNT <- N_ACCESS`. -/
def rAddr (x : EdgeCtx) (e : Ebc) : Ebc :=
  e.afterPins (setPins maskAddr (onAddrLines e.addrR) x.portErr e.pincfg) fun pins =>
    { e with pincfg := pins, cnt := x.par.nAccess, seq := .rAccess }

/-- R_ACCESS: N_ACCESS edges. -/
def rAccess (x : EdgeCtx) (e : Ebc) : Ebc :=
  delayState x.par (fun e => { e with cnt := 0, seq := .rSample }) e

/-- R_SAMPLE: bit i from IO`i`, complete with the byte. -/
def rSample (x : EdgeCtx) (e : Ebc) : Ebc :=
  e.afterPins (getPins maskData x.portErr x.sample e.pincfg) fun r =>
    { e with rdataR := fromDataLines r }.complete (fromDataLines r)

/-! ## All of them -/

/-- The action of micro-state `SEQ` on its edge; `none` where the spec gives none. READY has no action of its own
(acceptance is `accept`). -/
def microOp (x : EdgeCtx) (e : Ebc) : Option Ebc :=
  match e.seq with
  | .ready => some e
  | .pExec => pExec x e
  | .xOe => some (xOe x e)
  | .xCe => xCe x e
  | .ewCtl => some (ewCtl x e)
  | .ewAddr => some (ewAddr x e)
  | .ewData => some (ewData x e)
  | .ewCe => some (ewCe x e)
  | .erData => some (erData x e)
  | .erCtl => some (erCtl x e)
  | .erAddr => some (erAddr x e)
  | .erCe => some (erCe x e)
  | .erOe => some (erOe x e)
  | .wAddr => some (wAddr x e)
  | .wData => some (wData x e)
  | .wSettle => some (wSettle x e)
  | .wPulse => some (wPulse x e)
  | .wRecover => some (wRecover x e)
  | .rAddr => some (rAddr x e)
  | .rAccess => some (rAccess x e)
  | .rSample => some (rSample x e)
  | .tCtl => some e.teardownControls
  | .tRel => some e.teardownRelease

end Sys2Proof.Machine
end

