-- ==== Sys2Proof/Machine/Edge.lean ====
section
/-! DEFINITION. The edge step (spec/30_encoding.md R92): what one rising edge of `clk` does to the whole machine; and
the running of edges until a command has ended. -/

namespace Sys2Proof.Machine

/-- What the micro-states read at the next edge. -/
def State.ctx (s : State) : EdgeCtx where
  par := s.par
  portErr := s.input.portErr
  sample := s.sample

/-- The first two lines of `edge(S, in)` (R92): `RSP_VALID <- 0`, and `ABORT_LATCH <- 0` while `abort = 0`. -/
def Ebc.openEdge (e : Ebc) (abort : Bool) : Ebc :=
  { e with rspValid := false, abortLatch := e.abortLatch && abort }

/-- The EBC's part of the edge with `rst_n = 1` (R92). -/
def ebcEdge (x : EdgeCtx) (inp : EdgeIn) (e : Ebc) : Option Ebc :=
  if inp.abort && !e.abortLatch then some (e.openEdge inp.abort).abortEntry
  else if e.seq = .ready then
    some (if inp.cmdValid && !inp.abort then accept inp.cmdWord (e.openEdge inp.abort) else e.openEdge inp.abort)
  else microOp x (e.openEdge inp.abort)

/-- The whole machine after an edge that leaves the EBC's registers at `e`: the device steps on the same edge
(20_memory.md R56), the edge's inputs are used up. -/
def State.advance (s : State) (e : Ebc) : State where
  par := s.par
  ebc := e
  dev := s.devStep
  inputs := s.inputs.tail
  tick := s.tick + 1

/-- One rising edge of `clk`, over the registers as it finds them (`State.atEdge`). With `rst_n = 0` every EBC register
holds its reset value; with `rst_n = 1` the step of R92 runs, after a reset pulse from the reset values; either way the
device steps on (70_reset_and_hazards.md R190, R191, R193). -/
def edge (s : State) : Result :=
  if s.input.rstN then
    match ebcEdge s.ctx s.input s.atEdge with
    | some e => .next (s.advance e)
    | none => .fault .noMicroOperation
  else .next (s.advance Ebc.reset)

/-- `n` edges, one after the other. -/
def edges : Nat → State → Result
  | 0, s => .next s
  | n + 1, s =>
    match edge s with
    | .next t => edges n t
    | .fault f => .fault f
    | .refused r => .refused r

/-- The accepting edge (R89) of a command whose word is `w` and whose acceptance is `acc`. -/
def acceptEdge (w : Word) (acc : Ebc → Ebc) (s : State) : State :=
  s.advance (acc ((s.atEdge.openEdge false).latch w))

/-- Edges until the coming edge finds `SEQ` at READY, at most `fuel` of them: until the command in flight has ended, by
a fall of `rst_n` too (70_reset_and_hazards.md R190). -/
def runToReady : Nat → State → Result
  | 0, s => .next s
  | n + 1, s =>
    if s.atEdge.seq = .ready then .next s
    else
      match edge s with
      | .next t => runToReady n t
      | .fault f => .fault f
      | .refused r => .refused r

/-- A bound on the edges a command in flight can still take: one for each input still to come, and what R205 allows
after the last of them. -/
def State.edgeBound (s : State) : Nat :=
  s.inputs.length + ((s.par.nSettle : Nat) + s.par.nPulse + s.par.nRecover + s.par.nAccess) + 8

/-- A command presented on the command port at the next edge: if `cmd_ready = 1` it is accepted and runs until it has
ended, whatever ends it; otherwise that edge passes and the command has not been accepted (R89). -/
def issue (w : Word) (acc : Ebc → Ebc) (s : State) : Result :=
  if s.cmdReady then runToReady (acceptEdge w acc s).edgeBound (acceptEdge w acc s) else edge s

end Sys2Proof.Machine
end

