-- ==== Sys2Proof/Machine/BusPhase.lean ====
section
/-! DEFINITION. The meanings of the phase commands ENTW, ENTR and EXIT (spec/41_bus_phase.md R121 to R124): acceptance
(Accept.lean), then the micro-states X_*, EW_*, ER_* (Micro.lean) edge by edge. -/

namespace Sys2Proof.Machine

/-- ENTW — enter WriteActive (R121). -/
def execEntw (s : State) : Result := issue (encode .entw) acceptEntw s

/-- ENTR — enter ReadActive (R122). -/
def execEntr (s : State) : Result := issue (encode .entr) acceptEntr s

/-- EXIT — return to Idle (R123). -/
def execExit (s : State) : Result := issue (encode .exit) acceptExit s

end Sys2Proof.Machine
end

