-- ==== Sys2Proof/Machine/Gpio.lean ====
section
/-! DEFINITION. The meanings of the pin commands PCFG, PSET, PGET and PREL (spec/40_gpio.md R105 to R108): acceptance
(Accept.lean), then the micro-states P_EXEC or T_CTL, T_REL (Micro.lean, Ops.lean) edge by edge. -/

namespace Sys2Proof.Machine

/-- PCFG — configure pins (R105). -/
def execPcfg (p : PinMask) (m : Mode) (i : Bool) (s : State) : Result :=
  issue (encode (.pcfg p m i)) (acceptPcfg p m i) s

/-- PSET — drive one pin (R106). -/
def execPset (n : BitVec 5) (l : Level) (s : State) : Result :=
  issue (encode (.pset n l)) (acceptPset n l) s

/-- PGET — sample one pin (R107). -/
def execPget (n : BitVec 5) (s : State) : Result :=
  issue (encode (.pget n)) (acceptPget n) s

/-- PREL — teardown (R108). -/
def execPrel (s : State) : Result :=
  issue (encode .prel) acceptPrel s

end Sys2Proof.Machine
end

