-- ==== Sys2Proof/Machine/Transfer.lean ====
section
/-! DEFINITION. The meanings of the timed transfers WRB and RDB (spec/42_bus_transfer.md R141, R142): acceptance
(Accept.lean), then the micro-states W_* or R_* (Micro.lean) edge by edge. -/

namespace Sys2Proof.Machine

/-- WRB — write one byte (R141). -/
def execWrb (a d : Byte) (s : State) : Result := issue (encode (.wrb a d)) (acceptWrb a d) s

/-- RDB — read one byte (R142). -/
def execRdb (a : Byte) (s : State) : Result := issue (encode (.rdb a)) (acceptRdb a) s

end Sys2Proof.Machine
end

