-- ==== Sys2Proof/Machine/Dispatch.lean ====
section
/-! DEFINITION. Which meaning each command has. -/

namespace Sys2Proof.Machine

def exec (i : Instr) (s : State) : Host.Outcome State Fault Refusal :=
  match i with
  | .pcfg p m b => Sys2Proof.Machine.execPcfg p m b s
  | .pset n l => Sys2Proof.Machine.execPset n l s
  | .pget n => Sys2Proof.Machine.execPget n s
  | .prel => Sys2Proof.Machine.execPrel s
  | .entw => Sys2Proof.Machine.execEntw s
  | .entr => Sys2Proof.Machine.execEntr s
  | .exit => Sys2Proof.Machine.execExit s
  | .wrb a d => Sys2Proof.Machine.execWrb a d s
  | .rdb a => Sys2Proof.Machine.execRdb a s

end Sys2Proof.Machine
end

