-- ==== Sys2Proof/Machine/Step.lean ====
section
/-! DEFINITION. One step of the machine: a whole command where one is accepted at the next edge, one edge everywhere
else (notes/assumptions/1.md). -/

namespace Sys2Proof.Machine

/-- One step. A legal word accepted at the next edge runs as its command until the command has ended. In every other
case (an ILLEGAL word, no word, `abort`, `rst_n = 0`, a micro-state in progress) one edge passes. -/
def step (s : State) : Host.Outcome State Fault Refusal :=
  if s.cmdReady && s.input.cmdValid then
    match decode s.input.cmdWord with
    | .ok i => exec i s
    | .error _ => edge s
  else edge s

/-- `s` with the word `w` of `nbits` bits presented on the command port at the next edge, so that the next step
accepts and runs it: `cmd_valid = 1`, `cmd_word = w`, `rst_n = 1` throughout, `abort = 0`, and `SEQ = READY` (where it
stands after reset and after every command). The edge's `port_err` and the inputs after it stay. -/
def State.withFetchWord (s : State) (nbits w : Nat) : State :=
  { s with
    ebc := { s.ebc with seq := .ready }
    inputs :=
      { s.input with
        rst := .high, abort := false, cmdValid := true, cmdWord := BitVec.ofNat 32 (w % 2 ^ nbits) } :: s.inputs.tail }

end Sys2Proof.Machine
end

