-- ==== Sys2Proof/Machine/Assembler.lean ====
section
/-! DEFINITION. The assembler of spec/30_encoding.md R93 to R95: one line of text to at most one command word. What the
rules leave open of the text itself (blanks, letter case, empty lines) is fixed here and in notes/assumptions/17.md. -/

namespace Sys2Proof.Machine

/-- Why a line is refused. -/
inductive AsmError where
  /-- No mnemonic of R93. -/
  | unknownMnemonic
  /-- Not the operands that the mnemonic takes (R93). -/
  | wrongOperands
  /-- "An assembler refuses an operand outside its range, and refuses a pin index 19–31" (R94). -/
  | outOfRange
  deriving DecidableEq, Repr

/-! ## Text -/

/-- A blank. -/
def isBlank (c : Char) : Bool := c == ' ' || c == '\t'

/-- A text without the blanks at its ends. -/
def trimBlanks (t : List Char) : List Char := ((t.dropWhile isBlank).reverse.dropWhile isBlank).reverse

/-- "`;` begins a comment" (R93). -/
def dropComment (t : List Char) : List Char := t.takeWhile (· != ';')

/-- The parts of a text between occurrences of `sep`; at least one. -/
def splitAtChar (sep : Char) : List Char → List (List Char)
  | [] => [[]]
  | c :: t =>
    if c == sep then [] :: splitAtChar sep t
    else
      match splitAtChar sep t with
      | [] => [[c]]
      | w :: ws => (c :: w) :: ws

/-- The operands of a text: "separated by commas" (R93); none where nothing is written. -/
def operandsOf (t : List Char) : List (List Char) :=
  if trimBlanks t = [] then [] else (splitAtChar ',' t).map trimBlanks

/-! ## Numbers (00_scope.md R8) -/

/-- The value of a digit, up to hexadecimal. -/
def digitOf (c : Char) : Option Nat :=
  if '0' ≤ c ∧ c ≤ '9' then some (c.toNat - '0'.toNat)
  else if 'a' ≤ c ∧ c ≤ 'f' then some (c.toNat - 'a'.toNat + 10)
  else if 'A' ≤ c ∧ c ≤ 'F' then some (c.toNat - 'A'.toNat + 10)
  else none

/-- Digits in a base, continuing from the value `acc`. -/
def digitsFrom (base : Nat) : Nat → List Char → Option Nat
  | acc, [] => some acc
  | acc, c :: t =>
    match digitOf c with
    | some d => if d < base then digitsFrom base (acc * base + d) t else none
    | none => none

/-- A literal: `0x…` hexadecimal, `0b…` binary, others decimal (R8). -/
def numberOf : List Char → Option Nat
  | [] => none
  | '0' :: 'x' :: c :: t => digitsFrom 16 0 (c :: t)
  | '0' :: 'b' :: c :: t => digitsFrom 2 0 (c :: t)
  | c :: t => digitsFrom 10 0 (c :: t)

/-! ## Operands (R94) -/

/-- The pin symbols. -/
def pinSymbols : List (List Char × Nat) :=
  [("A0".toList, 0), ("A1".toList, 1), ("A2".toList, 2), ("A3".toList, 3), ("A4".toList, 4), ("A5".toList, 5),
    ("A6".toList, 6), ("A7".toList, 7), ("IO0".toList, 8), ("IO1".toList, 9), ("IO2".toList, 10),
    ("IO3".toList, 11), ("IO4".toList, 12), ("IO5".toList, 13), ("IO6".toList, 14), ("IO7".toList, 15),
    ("WE".toList, 16), ("OE".toList, 17), ("CE".toList, 18)]

/-- The group symbols. -/
def groupSymbols : List (List Char × PinMask) :=
  [("ADDR".toList, maskAddr), ("DATA".toList, maskData), ("CTRL".toList, maskCtrl), ("ALL".toList, maskAll)]

/-- The value of a symbol in a list of symbols. -/
def symbolIn {α : Type} : List (List Char × α) → List Char → Option α
  | [], _ => none
  | (name, v) :: l, t => if t = name then some v else symbolIn l t

/-- A number up to `top`. -/
def boundedNumber (top : Nat) (t : List Char) : Except AsmError Nat :=
  match numberOf t with
  | some n => if n ≤ top then .ok n else .error .outOfRange
  | none => .error .wrongOperands

/-- A pin: a number 0–18 or a pin symbol. -/
def pinOperand (t : List Char) : Except AsmError (BitVec 5) :=
  match symbolIn pinSymbols t with
  | some k => .ok (BitVec.ofNat 5 k)
  | none => (boundedNumber 18 t).map (BitVec.ofNat 5)

/-- A part of a symbolic mask: a group, or a pin as `1 << index`. -/
def maskPart (t : List Char) : Except AsmError PinMask :=
  match symbolIn groupSymbols t with
  | some m => .ok m
  | none =>
    match symbolIn pinSymbols t with
    | some k => .ok (1#19 <<< k)
    | none => .error .wrongOperands

/-- Parts joined by `|`. -/
def maskParts : List (List Char) → Except AsmError PinMask
  | [] => .ok 0
  | t :: ts =>
    match maskPart (trimBlanks t), maskParts ts with
    | .ok m, .ok n => .ok (m ||| n)
    | .error e, _ => .error e
    | _, .error e => .error e

/-- A mask: a number 0x00000–0x7FFFF, or symbols joined by `|`. -/
def maskOperand (t : List Char) : Except AsmError PinMask :=
  match numberOf t with
  | some n => if n ≤ 0x7FFFF then .ok (BitVec.ofNat 19 n) else .error .outOfRange
  | none => maskParts (splitAtChar '|' t)

/-- An address or a data byte: a number 0–255. -/
def byteOperand (t : List Char) : Except AsmError Byte := (boundedNumber 255 t).map (BitVec.ofNat 8)

/-- A level: `lo` or `hi`. -/
def levelOperand (t : List Char) : Except AsmError Level :=
  if t = "lo".toList then .ok .low
  else if t = "hi".toList then .ok .high
  else .error .wrongOperands

/-- PCFG's last two operands: `out, lo`, `out, hi`, `in, none` or `in, pu`. -/
def pcfgOperands (mode init : List Char) : Except AsmError (Mode × Bool) :=
  if mode = "out".toList ∧ init = "lo".toList then .ok (.output, false)
  else if mode = "out".toList ∧ init = "hi".toList then .ok (.output, true)
  else if mode = "in".toList ∧ init = "none".toList then .ok (.input, false)
  else if mode = "in".toList ∧ init = "pu".toList then .ok (.input, true)
  else .error .wrongOperands

/-! ## Lines (R93, R95) -/

/-- A command from its mnemonic and operands: the rows of R93. -/
def parseCommand (name : List Char) (args : List (List Char)) : Except AsmError Instr :=
  if name = "pcfg".toList then
    match args with
    | [m, md, i] => do
      let p ← maskOperand m
      let (mode, init) ← pcfgOperands md i
      return .pcfg p mode init
    | _ => .error .wrongOperands
  else if name = "pset".toList then
    match args with
    | [n, l] => do return .pset (← pinOperand n) (← levelOperand l)
    | _ => .error .wrongOperands
  else if name = "pget".toList then
    match args with
    | [n] => do return .pget (← pinOperand n)
    | _ => .error .wrongOperands
  else if name = "prel".toList then (if args = [] then .ok .prel else .error .wrongOperands)
  else if name = "entw".toList then (if args = [] then .ok .entw else .error .wrongOperands)
  else if name = "entr".toList then (if args = [] then .ok .entr else .error .wrongOperands)
  else if name = "exit".toList then (if args = [] then .ok .exit else .error .wrongOperands)
  else if name = "wrb".toList then
    match args with
    | [a, d] => do return .wrb (← byteOperand a) (← byteOperand d)
    | _ => .error .wrongOperands
  else if name = "rdb".toList then
    match args with
    | [a] => do return .rdb (← byteOperand a)
    | _ => .error .wrongOperands
  else .error .unknownMnemonic

/-- "One line holds one command" (R93): the command of a line, or none where it holds blanks or a comment only. -/
def parseLine (line : String) : Except AsmError (Option Instr) :=
  match trimBlanks (dropComment line.toList) with
  | [] => .ok none
  | c :: t =>
    (parseCommand ((c :: t).takeWhile (!isBlank ·)) (operandsOf ((c :: t).dropWhile (!isBlank ·)))).map some

/-- The word of a line (R93): "every mnemonic of rule R93 is exactly one command word" (R95). -/
def assembleLine (line : String) : Except AsmError (Option Word) :=
  (parseLine line).map (Option.map encode)

end Sys2Proof.Machine
end

