-- ==== Sys2Proof/Safety.lean ====
section
/-! DEFINITION. The vocabulary of claims: the timing premise, quiet inputs, a device at rest, the phase rows of
spec/41_bus_phase.md R125, the invariant of the EBC's registers and of the device, and what a good state is. -/

namespace Sys2Proof.Machine

/-- The timing premise TP (20_memory.md R59). -/
abbrev TimingPremise (p : Params) : Prop :=
  p.dSetup ≤ (p.nSettle : Nat) ∧ p.dWp ≤ (p.nPulse : Nat) ∧ (p.dWc : Nat) ≤ (p.nRecover : Nat) ∧
    p.dAcc ≤ (p.nAccess : Nat)

/-- No reset in any coming cycle, no abort and no port error at any coming edge; `cmd_valid` and `cmd_word` are
unconstrained. -/
abbrev State.quiet (s : State) : Prop :=
  ∀ e ∈ s.inputs, e.rst = .high ∧ e.abort = false ∧ e.portErr = false

/-- No reset in any coming cycle and no abort at any coming edge. -/
abbrev State.undisturbed (s : State) : Prop := ∀ e ∈ s.inputs, e.rst = .high ∧ e.abort = false

/-- The inputs of the n-th cycle from the present one on. -/
def State.inputAt (s : State) (n : Nat) : EdgeIn := s.inputs.getD n EdgeIn.idle

/-- The device is in no write pulse and in no internal write cycle (R56). -/
abbrev State.atRest (s : State) : Prop := s.dev.inPulse = false ∧ s.dev.wcLeft = 0

/-- The pads exclude a write pulse in this cycle: WE̅ or CE̅ is held High, or floats on a board that shows it High
(R60). -/
abbrev State.writeOff (s : State) : Prop :=
  passiveNet (s.pin pinWE) = .high ∨ passiveNet (s.pin pinCE) = .high ∨
    (s.par.floatPolicy = .inert ∧
      (passiveNet (s.pin pinWE) = .float ∨ passiveNet (s.pin pinCE) = .float))

/-! ## The rows of R125 -/

/-- The pins in WRITE_ACTIVE. -/
abbrev WritePins (p : Pins) : Prop :=
  (∀ i, (pinAt p (pinA i)).isOutput = true) ∧ (∀ i, (pinAt p (pinIO i)).isOutput = true) ∧
    pinAt p pinWE = .output .high ∧ pinAt p pinOE = .output .high ∧ pinAt p pinCE = .output .low

/-- The pins in READ_ACTIVE. -/
abbrev ReadPins (p : Pins) : Prop :=
  (∀ i, (pinAt p (pinA i)).isOutput = true) ∧ (∀ i, pinAt p (pinIO i) = .input .up) ∧
    pinAt p pinWE = .output .high ∧ pinAt p pinOE = .output .low ∧ pinAt p pinCE = .output .low

/-- The phase invariant (R125): the row of the phase; IDLE puts no constraint. -/
abbrev PhaseRow (ph : Phase) (p : Pins) : Prop :=
  (ph = .writeActive → WritePins p) ∧ (ph = .readActive → ReadPins p)

/-- All control lines Output High, as EW_CTL and ER_CTL leave them. -/
abbrev ControlsHigh (p : Pins) : Prop :=
  pinAt p pinWE = .output .high ∧ pinAt p pinOE = .output .high ∧ pinAt p pinCE = .output .high

/-- The pins `q` that T_CTL makes of the pins `p` (40_gpio.md R108): WE̅ (16), OE̅ (17) and CE̅ (18) at Output High if
they were Output, every other pin as it was. -/
abbrev ControlsDeasserted (p q : Pins) : Prop :=
  (∀ (k : Pin) (l : Level), 16 ≤ k.val → pinAt p k = .output l → pinAt q k = .output .high) ∧
    (∀ k : Pin, k.val < 16 ∨ (∀ l, pinAt p k ≠ .output l) → pinAt q k = pinAt p k)

/-- A0–A7 Output Low, as EW_ADDR and ER_ADDR leave them. -/
abbrev AddrLow (p : Pins) : Prop := ∀ i, pinAt p (pinA i) = .output .low

/-- IO0–IO7 Output Low, as EW_DATA leaves them. -/
abbrev DataLow (p : Pins) : Prop := ∀ i, pinAt p (pinIO i) = .output .low

/-- IO0–IO7 Input PullUp, as ER_DATA leaves them. -/
abbrev DataIn (p : Pins) : Prop := ∀ i, pinAt p (pinIO i) = .input .up

/-- The pins at the end of ENTW (R121): exactly this state. -/
abbrev EnteredWrite (p : Pins) : Prop :=
  AddrLow p ∧ DataLow p ∧ pinAt p pinWE = .output .high ∧ pinAt p pinOE = .output .high ∧ pinAt p pinCE = .output .low

/-- The pins at the end of ENTR (R122): exactly this state. -/
abbrev EnteredRead (p : Pins) : Prop :=
  AddrLow p ∧ DataIn p ∧ pinAt p pinWE = .output .high ∧ pinAt p pinOE = .output .low ∧ pinAt p pinCE = .output .low

/-- No data line is driven unless OE̅ is driven High: what keeps the EBC from contending (R127). -/
abbrev DataDriveSafe (p : Pins) : Prop := (∃ i, (pinAt p (pinIO i)).isOutput = true) → pinAt p pinOE = .output .high

/-! ## The invariant of the registers -/

/-- The delay states (42_bus_transfer.md R140). -/
def Seq.isDelay : Seq → Bool
  | .wSettle | .wPulse | .wRecover | .rAccess => true
  | _ => false

/-- The delay a delay state is entered with (R141, R142). -/
def delayOf (p : Params) : Seq → Nat
  | .wSettle => p.nSettle
  | .wPulse => p.nPulse
  | .wRecover => p.nRecover
  | .rAccess => p.nAccess
  | _ => 0

/-- PCFG, PSET and PGET: the commands that P_EXEC performs (R105 to R107). -/
def isPinCommand : Instr → Bool
  | .pcfg _ _ _ | .pset _ _ | .pget _ => true
  | .prel | .entw | .entr | .exit | .wrb _ _ | .rdb _ => false

/-- Which commands a micro-state belongs to (10_state.md R27), with the operand registers of a transfer (R31). -/
def Ebc.CommandFits (e : Ebc) : Prop :=
  match e.seq with
  | .ready | .tCtl | .tRel => True
  | .pExec => ∃ i, decode e.cmd = .ok i ∧ isPinCommand i = true
  | .xOe | .xCe => decode e.cmd = .ok .entw ∨ decode e.cmd = .ok .entr ∨ decode e.cmd = .ok .exit
  | .ewCtl | .ewAddr | .ewData | .ewCe => decode e.cmd = .ok .entw
  | .erData | .erCtl | .erAddr | .erCe | .erOe => decode e.cmd = .ok .entr
  | .wAddr | .wData | .wSettle | .wPulse | .wRecover => decode e.cmd = .ok (.wrb e.addrR e.wdataR)
  | .rAddr | .rAccess | .rSample => decode e.cmd = .ok (.rdb e.addrR)

/-- The phase in which a micro-state runs (R121 to R123, R141, R142, R105 to R107). -/
def Seq.phaseFits : Seq → Phase → Bool
  | .ready, _ | .tCtl, _ | .tRel, _ => true
  | .xOe, ph | .xCe, ph => ph != .idle
  | .wAddr, ph | .wData, ph | .wSettle, ph | .wPulse, ph | .wRecover, ph => ph == .writeActive
  | .rAddr, ph | .rAccess, ph | .rSample, ph => ph == .readActive
  | _, ph => ph == .idle

/-- What is known of the pins in each micro-state (R121 to R123, R125, R141, R142). -/
def Ebc.PinsFit (e : Ebc) : Prop :=
  match e.seq with
  | .ready => e.fault = false → PhaseRow e.phase e.pincfg
  | .xOe => PhaseRow e.phase e.pincfg
  | .xCe =>
    pinAt e.pincfg pinWE = .output .high ∧ pinAt e.pincfg pinOE = .output .high ∧ pinAt e.pincfg pinCE = .output .low
  | .ewAddr => ControlsHigh e.pincfg
  | .ewData => ControlsHigh e.pincfg ∧ AddrLow e.pincfg
  | .ewCe => ControlsHigh e.pincfg ∧ AddrLow e.pincfg ∧ DataLow e.pincfg
  | .erCtl => DataIn e.pincfg
  | .erAddr => DataIn e.pincfg ∧ ControlsHigh e.pincfg
  | .erCe => DataIn e.pincfg ∧ ControlsHigh e.pincfg ∧ AddrLow e.pincfg
  | .erOe =>
    DataIn e.pincfg ∧ AddrLow e.pincfg ∧
      pinAt e.pincfg pinWE = .output .high ∧ pinAt e.pincfg pinOE = .output .high ∧ pinAt e.pincfg pinCE = .output .low
  | .wAddr | .wData | .wSettle | .wRecover => WritePins e.pincfg
  | .wPulse =>
    (∀ i, (pinAt e.pincfg (pinA i)).isOutput = true) ∧ (∀ i, (pinAt e.pincfg (pinIO i)).isOutput = true) ∧
      pinAt e.pincfg pinWE = .output .low ∧ pinAt e.pincfg pinOE = .output .high ∧ pinAt e.pincfg pinCE = .output .low
  | .rAddr | .rAccess | .rSample => ReadPins e.pincfg
  | .pExec | .ewCtl | .erData | .tCtl | .tRel => True

/-- What every state that reset leads to satisfies, of the EBC's registers. -/
structure Ebc.Inv (p : Params) (e : Ebc) : Prop where
  /-- Outside the delay states the counter is 0 (10_state.md R28). -/
  cntClear : e.seq.isDelay = false → e.cnt = 0
  /-- "`CNT = 0` is never observed in a delay state", and the counter holds at most the delay (R140). -/
  cntCounts : e.seq.isDelay = true → 1 ≤ e.cnt ∧ e.cnt ≤ delayOf p e.seq
  /-- A cleared fault record reads 0 (R26). -/
  faultClear : e.fault = false → e.faultCause = .ok ∧ e.faultPin = 0 ∧ e.faultOp = 0
  /-- A set one holds a HardwareFault, and only a teardown runs beside it (R26, 60_exceptions.md R174). -/
  faultHeld : e.fault = true →
    e.faultCause.isHardwareFault = true ∧ (e.seq = .ready ∨ e.seq = .tCtl ∨ e.seq = .tRel)
  /-- `ABORTING` is set only during a teardown (R30). -/
  abortingTears : e.aborting = true → e.seq = .tCtl ∨ e.seq = .tRel
  /-- A response comes with READY (30_encoding.md R91). -/
  responded : e.rspValid = true → e.seq = .ready
  /-- The micro-state belongs to the command in `CMD` (R27, R29). -/
  command : e.CommandFits
  /-- The micro-state belongs to the phase. -/
  phase : e.seq.phaseFits e.phase = true
  /-- The pins are as the micro-state found them. -/
  pins : e.PinsFit

/-- What every state that the start of a run leads to satisfies, of the device. -/
structure Device.Inv (p : Params) (d : Device) : Prop where
  /-- The array is in canonical form. -/
  memory : Memory.wf p.mem0 d.mem
  /-- No pulse begins while a write cycle runs (20_memory.md R58(b)), so the two never overlap. -/
  apart : d.inPulse = true → d.wcLeft = 0
  /-- A pulse is at least one cycle long. -/
  pulseLength : d.inPulse = true → 1 ≤ d.pLen
  /-- The write cycle is never longer than `D_WC - 1` cycles more (R58(d)). -/
  writeCycle : d.wcLeft < p.dWc

/-- The invariant of the whole machine. -/
structure State.Inv (s : State) : Prop where
  ebc : s.ebc.Inv s.par
  dev : s.dev.Inv s.par

/-! ## Outcomes of a command, as whole register files: what is not named here is unchanged -/

/-- The registers after a command with word `w` that completed OK with response byte `d` and changed no pin, no phase
and no operand register. -/
def Ebc.done (e : Ebc) (w : Word) (d : Byte) : Ebc :=
  { e with
    cmd := w, seq := .ready, abortLatch := false, rspValid := true, rspStatus := .ok, rspData := d }

/-- The registers after a command with word `w` that was answered `st` (ILLEGAL or REJECTED) and did nothing. -/
def Ebc.turnedAway (e : Ebc) (w : Word) (st : Status) : Ebc :=
  { e with
    cmd := w, seq := .ready, abortLatch := false, rspValid := true, rspStatus := st, rspData := 0 }

/-- The registers after a command with word `w` that ended in a HardwareFault before it changed anything. -/
def Ebc.failed (e : Ebc) (w : Word) (cause : Status) (pin : BitVec 5) : Ebc :=
  { e with
    cmd := w, seq := .ready, abortLatch := false, rspValid := true, rspStatus := cause, rspData := 0
    fault := true, faultCause := cause, faultPin := pin, faultOp := opcodeOf w, cnt := 0 }

/-- `t` comes `n` edges after `s`: the parameters are the same, `n` edges' inputs are used up. -/
abbrev Took (n : Nat) (s t : State) : Prop :=
  t.par = s.par ∧ t.inputs = s.inputs.drop n ∧ t.tick = s.tick + n

/-- Every cell of the EEPROM reads as before. -/
abbrev SameCells (s t : State) : Prop := ∀ a, t.cell a = s.cell a

/-- Commands one after the other, each presented when the one before it has ended. -/
def commands : List Instr → State → Result
  | [], s => .next s
  | i :: is, s =>
    match exec i s with
    | .next t => commands is t
    | .fault f => .fault f
    | .refused r => .refused r

/-- The value that the latest of the writes `ws` left in cell `b`, or `old` if none names it. -/
def latestWrite : List (Byte × Byte) → Byte → Byte → Byte
  | [], _, old => old
  | (a, v) :: ws, b, old => latestWrite ws b (if a = b then v else old)

/-- The pins that the micro-state acts on at its next edge (R105 to R107, R121 to R123, R141, R142); empty where it
accesses none. -/
def Ebc.accessed (e : Ebc) : PinMask :=
  match e.seq with
  | .pExec =>
    match decode e.cmd with
    | .ok (.pcfg m _ _) => m
    | .ok (.pset n _) | .ok (.pget n) => maskPin (pinOfIndex n)
    | _ => 0
  | .xOe | .erOe => maskPin pinOE
  | .xCe | .ewCe | .erCe => maskPin pinCE
  | .ewCtl | .erCtl => maskCtrl
  | .ewAddr | .erAddr | .wAddr | .rAddr => maskAddr
  | .ewData | .erData | .wData | .rSample => maskData
  | .wSettle | .wPulse => if e.cnt = 1 then maskPin pinWE else 0
  | .ready | .wRecover | .rAccess | .tCtl | .tRel => 0

/-- The micro-state's primitive is `get`, which wants Input pins (R107, R142). -/
def Ebc.samples (e : Ebc) : Bool :=
  match e.seq, decode e.cmd with
  | .rSample, _ => true
  | .pExec, .ok (.pget _) => true
  | _, _ => false

/-- Pin k has the direction that the micro-state's primitive wants; `cfg` wants none (R101 to R103). -/
def Ebc.directionFits (e : Ebc) (k : Pin) : Bool :=
  if e.samples then (pinAt e.pincfg k).isInput else (pinAt e.pincfg k).isOutput

/-- A good state: "a state in which it is true is never a good final state" (R62). -/
abbrev State.good (s : State) : Prop := s.dev.contention = false ∧ s.ebc.fault = false ∧ s.ebc.seq = .ready

end Sys2Proof.Machine
end

