-- ==== Sys2Proof/Certificates/Slice0/Obligations.lean ====
section
/-! DEFINITION. The statements for the provers. Each definition's docstring names the rule of spec/ it formalises. -/

open Sys2Proof Sys2Proof.Machine

/-! ## Encoding -/

/-- Decoding the word of a command gives the command back, for every operand (R83, R84, R88). -/
def Obligations.DecodeInvertsEncode : Prop :=
  ∀ i : Instr, i.wellFormed = true → decode (encode i) = .ok i

/-- A word that decodes is the word of the command it decodes to, so no two words are one command and no bit of a
legal word is dropped; and that command is well formed (R87, R88). -/
def Obligations.EncodeInvertsDecode : Prop :=
  ∀ (w : Word) (i : Instr), decode w = .ok i → encode i = w ∧ i.wellFormed = true

/-- R85 and R86: which words of a defined opcode are ILLEGAL. -/
def Obligations.ReservedBitsAndPinsIllegal : Prop :=
  ∀ w : Word,
    ((opcodeOf w = 0x2#4 ∨ opcodeOf w = 0x3#4) → 19 ≤ (w.extractLsb' 0 5).toNat → legal w = false) ∧
    (opcodeOf w = 0x1#4 → w.extractLsb' 19 7 ≠ 0 → legal w = false) ∧
    (opcodeOf w = 0x2#4 → w.extractLsb' 5 22 ≠ 0 → legal w = false) ∧
    (opcodeOf w = 0x3#4 → w.extractLsb' 5 23 ≠ 0 → legal w = false) ∧
    (opcodeOf w = 0xC#4 → w.extractLsb' 16 12 ≠ 0 ∨ w.extractLsb' 0 8 ≠ 0 → legal w = false) ∧
    (opcodeOf w = 0xB#4 → w.extractLsb' 16 12 ≠ 0 → legal w = false) ∧
    ((opcodeOf w = 0x4#4 ∨ opcodeOf w = 0x8#4 ∨ opcodeOf w = 0x9#4 ∨ opcodeOf w = 0xA#4) →
      w.extractLsb' 0 28 ≠ 0 → legal w = false)

/-- The seven undefined opcodes decode to nothing, by name, and no other opcode is called undefined (R81, R87). -/
def Obligations.UndefinedOpcodesNamed : Prop :=
  ∀ w : Word, decode w = .error .undefinedOpcode ↔
    opcodeOf w = 0x0#4 ∨ opcodeOf w = 0x5#4 ∨ opcodeOf w = 0x6#4 ∨ opcodeOf w = 0x7#4 ∨
      opcodeOf w = 0xD#4 ∨ opcodeOf w = 0xE#4 ∨ opcodeOf w = 0xF#4

/-- One word of each command, written out from R83, decodes to the command it stands for. -/
def Obligations.TableWordsDecode : Prop :=
  decode 0x1C070000#32 = .ok (.pcfg 0x70000#19 .output true) ∧
  decode 0x28000008#32 = .ok (.pset 8#5 .high) ∧
  decode 0x30000012#32 = .ok (.pget 18#5) ∧
  decode 0x40000000#32 = .ok .prel ∧
  decode 0x80000000#32 = .ok .entw ∧
  decode 0x90000000#32 = .ok .entr ∧
  decode 0xA0000000#32 = .ok .exit ∧
  decode 0xB00005A5#32 = .ok (.wrb 0x05#8 0xA5#8) ∧
  decode 0xC000FF00#32 = .ok (.rdb 0xFF#8)

/-- The assembler "refuses … rather than encode an ILLEGAL word" (R94): every word it makes of any line is legal and
decodes to the command that the line was read as (R93, R95). -/
def Obligations.AssembledWordsAreLegal : Prop :=
  ∀ (line : String) (w : Word), assembleLine line = .ok (some w) →
    ∃ i, parseLine line = .ok (some i) ∧ decode w = .ok i

/-! ## Outputs -/

/-- Every field of the status word lies where R33 puts it, with the encodings of R25 and R160. -/
def Obligations.StatusWordFields : Prop :=
  ∀ e : Ebc,
    ((statusWord e).extractLsb' 0 2 =
      match e.phase with
      | .idle => 0#2
      | .writeActive => 1#2
      | .readActive => 2#2) ∧
    (statusWord e).getLsbD 2 = decide (e.seq ≠ .ready) ∧
    (statusWord e).getLsbD 3 = e.fault ∧
    ((statusWord e).extractLsb' 4 4 =
      match e.faultCause with
      | .ok => 0x0#4
      | .illegal => 0x1#4
      | .rejected => 0x2#4
      | .aborted => 0x3#4
      | .hwfDirection => 0x8#4
      | .hwfPhase => 0x9#4
      | .hwfOwnership => 0xA#4
      | .hwfPort => 0xB#4) ∧
    (statusWord e).extractLsb' 8 5 = e.faultPin ∧
    (statusWord e).getLsbD 13 = e.abortLatch ∧
    (statusWord e).extractLsb' 14 4 = e.faultOp ∧
    (statusWord e).extractLsb' 18 14 = 0#14

/-- `pincfg[56:0]` carries `PINCFG[k]` on bits [3k+2:3k] (R22), in the encoding of R21; the pads of pin k are the
functions of that entry that R100 gives. -/
def Obligations.PincfgWordFields : Prop :=
  ∀ (e : Ebc) (abort rstN : Bool) (k : Pin),
    ((e.outputs abort rstN).pincfg.extractLsb' (3 * k.val) 3 =
      match pinAt e.pincfg k with
      | .unclaimed => 0b000#3
      | .input .none => 0b001#3
      | .input .up => 0b101#3
      | .output .low => 0b011#3
      | .output .high => 0b111#3) ∧
    ((e.outputs abort rstN).padSel.getLsbD k = true ↔ pinAt e.pincfg k ≠ .unclaimed) ∧
    ((e.outputs abort rstN).padOe.getLsbD k = true ↔ ∃ l, pinAt e.pincfg k = .output l) ∧
    ((e.outputs abort rstN).padO.getLsbD k = true ↔ pinAt e.pincfg k = .output .high) ∧
    ((e.outputs abort rstN).padPu.getLsbD k = true ↔ pinAt e.pincfg k = .input .up)

/-! ## Reset -/

/-- Every EBC state element and every output after reset (R192). -/
def Obligations.ResetValues : Prop :=
  (∀ k, pinAt State.reset.ebc.pincfg k = .unclaimed) ∧ State.reset.ebc.phase = .idle ∧
  State.reset.ebc.fault = false ∧ State.reset.ebc.faultCause.code = 0 ∧ State.reset.ebc.faultPin = 0 ∧
  State.reset.ebc.faultOp = 0 ∧ State.reset.ebc.seq = .ready ∧ State.reset.ebc.cnt = 0 ∧
  State.reset.ebc.cmd = 0 ∧ State.reset.ebc.abortLatch = false ∧ State.reset.ebc.aborting = false ∧
  State.reset.ebc.addrR = 0 ∧ State.reset.ebc.wdataR = 0 ∧ State.reset.ebc.rdataR = 0 ∧
  State.reset.ebc.rspValid = false ∧ State.reset.ebc.rspStatus.code = 0 ∧ State.reset.ebc.rspData = 0 ∧
  pincfgWord State.reset.ebc.pincfg = 0 ∧ statusWord State.reset.ebc = 0 ∧
  (∀ is, ({ State.reset with inputs := is } : State).cmdReady =
    (!({ State.reset with inputs := is } : State).input.abort &&
      ({ State.reset with inputs := is } : State).input.rstN)) ∧
  (∀ k, (State.reset.pin k).padSel = false ∧ (State.reset.pin k).padOe = false ∧
    (State.reset.pin k).padO = false ∧ (State.reset.pin k).padPu = false)

/-- `rst_n = 0` at any time in a cycle, in any state (R190): the output ports at once as R192 has them, `cmd_ready` and
`rsp_valid` 0 and every pad released; every register at its reset value by the edge that closes the cycle; at an edge
that finds `rst_n = 0` nothing else happens, whatever `abort`, `cmd_valid`, `FAULT` and `SEQ` are; and the device steps
on as it would have (R193). -/
def Obligations.ResetTakesOver : Prop :=
  ∀ s : State,
    s.outputs .inReset =
      { cmdReady := false, rspValid := false, rspStatus := 0, rspData := 0, status := 0, pincfg := 0
        padSel := 0, padOe := 0, padO := 0, padPu := 0 } ∧
    (s.input.rst ≠ .high → s.atEdge = Ebc.reset) ∧
    (s.input.rst = .low → s.cmdReady = false ∧ step s = .next (s.advance Ebc.reset)) ∧
    (s.input.rst ≠ .high → ∀ t, edge s = .next t → t.dev = s.devStep)

/-! ## The step and the edge -/

/-- A step at a state that accepts the word of a legal command runs that command (R89). -/
def Obligations.StepRunsDecodedCommand : Prop :=
  ∀ (s : State) (i : Instr), s.cmdReady = true → s.input.cmdValid = true → decode s.input.cmdWord = .ok i →
    step s = exec i s

/-- The word of a well-formed command, placed on the command port, is what the very next step runs (R89). -/
def Obligations.PlacedWordRuns : Prop :=
  ∀ (s : State) (i : Instr), i.wellFormed = true →
    step (s.withFetchWord 32 (encode i).toNat) = exec i (s.withFetchWord 32 (encode i).toNat)

/-- A step is a whole number of edges of R92, at least one, whether it goes on or stops: running whole commands loses
nothing that the edges do. -/
def Obligations.StepIsEdges : Prop :=
  (∀ s t : State, step s = .next t → ∃ n, 1 ≤ n ∧ edges n s = .next t) ∧
  (∀ (s : State) (f : Fault), step s = .fault f → ∃ n, 1 ≤ n ∧ edges n s = .fault f)

/-- Every command accepted in any state ends, whatever the inputs do meanwhile: it answers a next state whose next edge
finds READY (a reset ends it too, R190); and with no reset and no abort it does so within the bound of R205. -/
def Obligations.EveryCommandEnds : Prop :=
  ∀ (i : Instr) (s : State), s.cmdReady = true →
    ∃ t, exec i s = .next t ∧ t.atEdge.seq = .ready ∧ t.par = s.par ∧
      (s.undisturbed → t.ebc.seq = .ready ∧
        t.tick ≤ s.tick + 1 + max 7 (max (2 + (s.par.nSettle : Nat) + s.par.nPulse + s.par.nRecover)
          (2 + (s.par.nAccess : Nat))))

/-- The delay states (R140): entered with `CNT = N` a delay state holds for N edges, counting down and changing no
pin, and leaves on the N-th. -/
def Obligations.DelayHoldsExactly : Prop :=
  ∀ (s : State) (n : Nat), s.quiet → s.ebc.seq.isDelay = true → s.ebc.cnt = n + 1 →
    (∀ m, m ≤ n → ∃ t, edges m s = .next t ∧ t.ebc.seq = s.ebc.seq ∧ t.ebc.cnt = n + 1 - m ∧
      t.ebc.pincfg = s.ebc.pincfg) ∧
    (∃ t, edges (n + 1) s = .next t ∧ t.ebc.seq ≠ s.ebc.seq)

/-- `RSP_VALID` after an edge with `rst_n = 1` (R91): 1 exactly where the edge ended a command, at its acceptance or in
a micro-state, and 0 after every other edge, on which the status and the data hold (R32). An edge in READY with
`abort = 0` and no command leaves the registers it finds, with `RSP_VALID` and `ABORT_LATCH` at 0 (R92, R176). -/
def Obligations.ResponseHolds : Prop :=
  (∀ s t : State, s.input.rstN = true → edge s = .next t →
    (t.ebc.rspValid = true ↔
      t.ebc.seq = .ready ∧ (s.atEdge.seq ≠ .ready ∨ (s.cmdReady = true ∧ s.input.cmdValid = true))) ∧
    (t.ebc.rspValid = false →
      t.ebc.rspStatus = s.atEdge.rspStatus ∧ t.ebc.rspData = s.atEdge.rspData)) ∧
  (∀ s : State, s.input.rstN = true → s.input.abort = false → s.input.cmdValid = false → s.atEdge.seq = .ready →
    edge s = .next (s.advance { s.atEdge with rspValid := false, abortLatch := false }) ∧
    step s = .next (s.advance { s.atEdge with rspValid := false, abortLatch := false }))

/-! ## Pin primitives -/

/-- `cfg(M, mode, init)` (R101): a port error on a set that is not empty faults with the lowest pin; otherwise exactly
the pins of M take the configuration, whatever they held. -/
def Obligations.CfgPrimitive : Prop :=
  ∀ (m : PinMask) (md : Mode) (init pe : Bool) (p : Pins),
    (∀ k, pe = true → inMask m k = true → (∀ j, j < k → inMask m j = false) →
      cfgPins m md init pe p = .error ⟨.hwfPort, k⟩) ∧
    (pe = false ∨ (∀ k, inMask m k = false) →
      ∃ q, cfgPins m md init pe p = .ok q ∧
        ∀ k, pinAt q k =
          if inMask m k then
            (match md, init with
              | .output, true => .output .high
              | .output, false => .output .low
              | .input, true => .input .up
              | .input, false => .input .none)
          else pinAt p k)

/-- `set(M, v)` (R102): the lowest pin that is not Output faults first, then a port error faults with the lowest pin of
the set; otherwise exactly the pins of M take their bits of v. -/
def Obligations.SetPrimitive : Prop :=
  ∀ (m v : PinMask) (pe : Bool) (p : Pins),
    (∀ k, inMask m k = true → (pinAt p k).isOutput = false →
      (∀ j, j < k → inMask m j = true → (pinAt p j).isOutput = true) →
      setPins m v pe p = .error ⟨.hwfDirection, k⟩) ∧
    ((∀ k, inMask m k = true → (pinAt p k).isOutput = true) →
      (∀ k, pe = true → inMask m k = true → (∀ j, j < k → inMask m j = false) →
        setPins m v pe p = .error ⟨.hwfPort, k⟩) ∧
      (pe = false ∨ (∀ k, inMask m k = false) →
        ∃ q, setPins m v pe p = .ok q ∧
          ∀ k, pinAt q k = if inMask m k then .output (if inMask v k then .high else .low) else pinAt p k))

/-- `get(M)` (R103): the checks of `set` with Input for Output; otherwise each bit of M is the level of its net in the
cycle that the edge closes, and every other bit is 0. A floating net's bit is a free value: nothing is said of it. -/
def Obligations.GetPrimitive : Prop :=
  ∀ (s : State) (m : PinMask) (pe : Bool),
    (∀ k, inMask m k = true → (s.pin k).isInput = false →
      (∀ j, j < k → inMask m j = true → (s.pin j).isInput = true) →
      getPins m pe s.sample s.ebc.pincfg = .error ⟨.hwfDirection, k⟩) ∧
    ((∀ k, inMask m k = true → (s.pin k).isInput = true) →
      (∀ k, pe = true → inMask m k = true → (∀ j, j < k → inMask m j = false) →
        getPins m pe s.sample s.ebc.pincfg = .error ⟨.hwfPort, k⟩) ∧
      (pe = false ∨ (∀ k, inMask m k = false) →
        ∃ r, getPins m pe s.sample s.ebc.pincfg = .ok r ∧
          ∀ k, (inMask m k = false → inMask r k = false) ∧
            (inMask m k = true → s.line k = .high → inMask r k = true) ∧
            (inMask m k = true → s.line k = .low → inMask r k = false)))

/-! ## Pin commands -/

/-- PCFG in IDLE configures exactly the pins of its mask, on one edge, and completes OK at e1 (R101, R105). Cells of the
EEPROM keep their contents if the device is at rest and the pads exclude a write pulse. -/
def Obligations.PcfgConfiguresItsMask : Prop :=
  ∀ (s : State) (m : PinMask) (md : Mode) (b : Bool),
    s.quiet → s.ebc.seq = .ready → s.ebc.fault = false → s.ebc.phase = .idle →
    ∃ t, exec (.pcfg m md b) s = .next t ∧ Took 2 s t ∧
      t.ebc = { s.ebc.done (encode (.pcfg m md b)) 0 with pincfg := t.ebc.pincfg } ∧
      (∀ k, pinAt t.ebc.pincfg k = if inMask m k then PinCfg.make md b else pinAt s.ebc.pincfg k) ∧
      (s.atRest → s.writeOff → SameCells s t) ∧
      (DataDriveSafe s.ebc.pincfg → t.dev.contention = s.dev.contention)

/-- PSET in IDLE on an Output pin drives that pin to its level, no other, and completes OK at e1 (R102, R106). -/
def Obligations.PsetDrivesItsPin : Prop :=
  ∀ (s : State) (n : BitVec 5) (l : Level),
    s.quiet → s.ebc.seq = .ready → s.ebc.fault = false → s.ebc.phase = .idle → pinIndexLegal n = true →
    (pinAt s.ebc.pincfg (pinOfIndex n)).isOutput = true →
    ∃ t, exec (.pset n l) s = .next t ∧ Took 2 s t ∧
      t.ebc = { s.ebc.done (encode (.pset n l)) 0 with pincfg := t.ebc.pincfg } ∧
      (∀ k, pinAt t.ebc.pincfg k = if k.val = n.toNat then .output l else pinAt s.ebc.pincfg k) ∧
      (s.atRest → s.writeOff → SameCells s t) ∧
      (DataDriveSafe s.ebc.pincfg → t.dev.contention = s.dev.contention)

/-- PGET in IDLE on an Input pin answers the level of its net in the cycle that its second edge closes, in bit 0, and
changes nothing but the response (R103, R107): 1 on a pulled-up net that the device does not drive. -/
def Obligations.PgetSamplesItsNet : Prop :=
  ∀ (s : State) (n : BitVec 5),
    s.quiet → s.ebc.seq = .ready → s.ebc.fault = false → s.ebc.phase = .idle → pinIndexLegal n = true →
    (pinAt s.ebc.pincfg (pinOfIndex n)).isInput = true →
    ∃ t, exec (.pget n) s = .next t ∧ Took 2 s t ∧
      t.ebc = s.ebc.done (encode (.pget n))
        (if (acceptEdge (encode (.pget n)) (acceptPget n) s).sample (pinOfIndex n) then 1 else 0) ∧
      (pinAt s.ebc.pincfg (pinOfIndex n) = .input .up →
        (inMask maskData (pinOfIndex n) = false ∨ passiveNet (s.pin pinCE) = .high ∨
          passiveNet (s.pin pinOE) = .high) → t.ebc.rspData = 1) ∧
      (s.atRest → s.writeOff → SameCells s t) ∧
      (DataDriveSafe s.ebc.pincfg → t.dev.contention = s.dev.contention)

/-- R110: a PSET on a pin that is not Output, or a PGET on a pin that is not Input, raises HWF_DIRECTION naming the pin,
changes no pin and returns 0. -/
def Obligations.DirectionViolationFaults : Prop :=
  ∀ (s : State) (n : BitVec 5) (l : Level),
    s.undisturbed → s.ebc.seq = .ready → s.ebc.fault = false → s.ebc.phase = .idle → pinIndexLegal n = true →
    ((pinAt s.ebc.pincfg (pinOfIndex n)).isOutput = false →
      ∃ t, exec (.pset n l) s = .next t ∧ Took 2 s t ∧
        t.ebc = s.ebc.failed (encode (.pset n l)) .hwfDirection n) ∧
    ((pinAt s.ebc.pincfg (pinOfIndex n)).isInput = false →
      ∃ t, exec (.pget n) s = .next t ∧ Took 2 s t ∧
        t.ebc = s.ebc.failed (encode (.pget n)) .hwfDirection n)

/-- A port error at the access of any micro-state (R104, R165): if the direction checks pass, the access changes
nothing and raises HWF_PORT naming the lowest pin of its set. -/
def Obligations.PortErrorStopsTheAccess : Prop :=
  ∀ (s : State) (k : Pin),
    s.Inv → s.input.rst = .high → s.input.abort = false → s.input.portErr = true →
    lowestPin s.ebc.accessed = some k →
    (s.ebc.seq = .pExec → ∀ n l,
      (decode s.ebc.cmd = .ok (.pset n l) → (pinAt s.ebc.pincfg (pinOfIndex n)).isOutput = true) ∧
      (decode s.ebc.cmd = .ok (.pget n) → (pinAt s.ebc.pincfg (pinOfIndex n)).isInput = true)) →
    edge s = .next (s.advance (s.ebc.failed s.ebc.cmd .hwfPort (pinField k)))

/-! ## Answers at acceptance -/

/-- R164: a pin command while a phase owns the bus raises HWF_OWNERSHIP at acceptance, before any pin action. -/
def Obligations.OwnershipFaultAtAcceptance : Prop :=
  ∀ (s : State) (m : PinMask) (md : Mode) (b : Bool) (n : BitVec 5) (l : Level),
    s.cmdReady = true → s.atEdge.fault = false → s.atEdge.phase ≠ .idle → pinIndexLegal n = true →
    exec (.pcfg m md b) s = .next (s.advance (s.atEdge.failed (encode (.pcfg m md b)) .hwfOwnership noPin)) ∧
    exec (.pset n l) s = .next (s.advance (s.atEdge.failed (encode (.pset n l)) .hwfOwnership noPin)) ∧
    exec (.pget n) s = .next (s.advance (s.atEdge.failed (encode (.pget n)) .hwfOwnership noPin))

/-- R163: a transfer outside its phase raises HWF_PHASE at acceptance, before any pin action. -/
def Obligations.PhaseFaultAtAcceptance : Prop :=
  ∀ (s : State) (a d : Byte), s.cmdReady = true → s.atEdge.fault = false →
    (s.atEdge.phase ≠ .writeActive →
      exec (.wrb a d) s = .next (s.advance (s.atEdge.failed (encode (.wrb a d)) .hwfPhase noPin))) ∧
    (s.atEdge.phase ≠ .readActive →
      exec (.rdb a) s = .next (s.advance (s.atEdge.failed (encode (.rdb a)) .hwfPhase noPin)))

/-- R167: while `FAULT = 1` every legal command but PREL is answered REJECTED and has no other effect. -/
def Obligations.RejectedWhileFaulted : Prop :=
  ∀ (s : State) (i : Instr), s.cmdReady = true → s.atEdge.fault = true → i.wellFormed = true → i ≠ .prel →
    exec i s = .next (s.advance (s.atEdge.turnedAway (encode i) .rejected))

/-- R166: an undecodable word is answered ILLEGAL at its acceptance, whatever `FAULT` and `PHASE` are. -/
def Obligations.IllegalWordAnswered : Prop :=
  ∀ s : State, s.cmdReady = true → s.input.cmdValid = true → legal s.input.cmdWord = false →
    step s = .next (s.advance (s.atEdge.turnedAway s.input.cmdWord .illegal))

/-- PSET and PGET of an index that is no pin are answered ILLEGAL (R85, R87). -/
def Obligations.NoPinAnsweredIllegal : Prop :=
  ∀ (s : State) (n : BitVec 5) (l : Level), s.cmdReady = true → 19 ≤ n.toNat →
    exec (.pset n l) s = .next (s.advance (s.atEdge.turnedAway (encode (.pset n l)) .illegal)) ∧
    exec (.pget n) s = .next (s.advance (s.atEdge.turnedAway (encode (.pget n)) .illegal))

/-! ## Teardown and abort -/

/-- PREL from any state in READY releases every pin, returns to IDLE, clears the fault record and completes OK at e2,
port errors or not (R108, R109); a second PREL leaves the same registers. -/
def Obligations.PrelReleasesEverything : Prop :=
  ∀ s : State, s.undisturbed → s.ebc.seq = .ready → s.ebc.aborting = false →
    ∃ t, exec .prel s = .next t ∧ Took 3 s t ∧
      t.ebc = { s.ebc.done (encode .prel) 0 with
        pincfg := t.ebc.pincfg, phase := .idle
        fault := false, faultCause := .ok, faultPin := 0, faultOp := 0 } ∧
      (∀ k, pinAt t.ebc.pincfg k = .unclaimed) ∧
      (s.atRest → s.writeOff → SameCells s t) ∧
      (DataDriveSafe s.ebc.pincfg → t.dev.contention = s.dev.contention) ∧
      ∃ u, exec .prel t = .next u ∧ u.ebc = t.ebc

/-- After a completed PREL the EBC is in its reset configuration, but for `CMD`, the operand registers and the response
(R195). -/
def Obligations.PrelReturnsToReset : Prop :=
  ∀ s : State, s.Inv → s.undisturbed → s.ebc.seq = .ready →
    ∃ t, exec .prel s = .next t ∧
      t.ebc = { Ebc.reset with
        cmd := encode .prel, addrR := s.ebc.addrR, wdataR := s.ebc.wdataR, rdataR := s.ebc.rdataR
        rspValid := true, rspStatus := .ok, rspData := 0 }

/-- The abort entry, from any micro-state (R176): the micro-state's action is not performed. -/
def Obligations.AbortEntersTeardown : Prop :=
  ∀ s : State, s.input.rstN = true → s.input.abort = true → s.atEdge.abortLatch = false →
    step s = .next (s.advance { s.atEdge with
      rspValid := false, abortLatch := true, aborting := true, cnt := 0, seq := .tCtl })

/-- "the pins are released at the second edge after `abort` is first seen" (R176), with one ABORTED response (R168),
from any state, whether `abort` stays high or falls at either of the teardown's two edges; where it falls at the first
and rises again at the second, the teardown starts anew with the control lines deasserted (R174). -/
def Obligations.AbortReleasesInThreeEdges : Prop :=
  ∀ s : State,
    (s.inputAt 0).rstN = true → (s.inputAt 1).rst = .high → (s.inputAt 2).rst = .high →
    (s.inputAt 0).abort = true → s.atEdge.abortLatch = false →
    (((s.inputAt 2).abort = true → (s.inputAt 1).abort = true) →
      ∃ t, edges 3 s = .next t ∧ Took 3 s t ∧
        t.ebc = { s.atEdge with
          pincfg := t.ebc.pincfg, phase := .idle
          fault := false, faultCause := .ok, faultPin := 0, faultOp := 0
          seq := .ready, cnt := 0, abortLatch := (s.inputAt 2).abort, aborting := false
          rspValid := true, rspStatus := .aborted, rspData := 0 } ∧
        ∀ k, pinAt t.ebc.pincfg k = .unclaimed) ∧
    ((s.inputAt 1).abort = false → (s.inputAt 2).abort = true →
      ∃ t, edges 3 s = .next t ∧ Took 3 s t ∧
        t.ebc = { s.atEdge with
          pincfg := t.ebc.pincfg
          seq := .tCtl, cnt := 0, abortLatch := true, aborting := true, rspValid := false } ∧
        ControlsDeasserted s.atEdge.pincfg t.ebc.pincfg)

/-- While `abort` stays high after its teardown nothing more happens: no second teardown, no acceptance, no second
response (R168, R174, R176). -/
def Obligations.AbortAnswersOnce : Prop :=
  ∀ s : State, s.input.rstN = true → s.input.abort = true → s.atEdge.abortLatch = true → s.atEdge.seq = .ready →
    step s = .next (s.advance { s.atEdge with rspValid := false })

/-! ## Faults -/

/-- A fault entry on any edge (R171, R172): the record names the cause, the pin field and the opcode of `CMD`, the
response is the cause with data 0, `CNT` and `SEQ` are cleared, and the faulting micro-operation has written nothing.
`FAULT_PIN` is 0x1F for a fault at acceptance (R163, R164); for one of a pin primitive it is the lowest pin of its set
that failed: with the wrong direction, or, if every direction is right, the lowest of the set (R104, R162, R165). -/
def Obligations.FaultEntryIsPrecise : Prop :=
  ∀ s t : State, edge s = .next t → s.atEdge.fault = false → t.ebc.fault = true →
    t.ebc.faultCause.isHardwareFault = true ∧ t.ebc.faultOp = opcodeOf t.ebc.cmd ∧
    (s.atEdge.seq = .ready →
      (t.ebc.faultCause = .hwfOwnership ∨ t.ebc.faultCause = .hwfPhase) ∧ t.ebc.faultPin = 0x1F#5) ∧
    (s.atEdge.seq ≠ .ready →
      ∃ k, inMask s.atEdge.accessed k = true ∧ t.ebc.faultPin = pinField k ∧
        ((t.ebc.faultCause = .hwfDirection ∧ s.atEdge.directionFits k = false ∧
            ∀ j, j < k → inMask s.atEdge.accessed j = true → s.atEdge.directionFits j = true) ∨
          (t.ebc.faultCause = .hwfPort ∧ s.input.portErr = true ∧
            ∀ j, j < k → inMask s.atEdge.accessed j = false))) ∧
    t.ebc.rspValid = true ∧ t.ebc.rspStatus = t.ebc.faultCause ∧ t.ebc.rspData = 0 ∧
    t.ebc.cnt = 0 ∧ t.ebc.seq = .ready ∧
    t.ebc.pincfg = s.atEdge.pincfg ∧ t.ebc.phase = s.atEdge.phase ∧
    t.ebc.addrR = s.atEdge.addrR ∧ t.ebc.wdataR = s.atEdge.wdataR ∧ t.ebc.rdataR = s.atEdge.rdataR

/-- The only ways out of `FAULT = 1` (R173): until T_REL or reset the record stays as it is and no pin moves but by
T_CTL. -/
def Obligations.FaultHeldUntilTeardown : Prop :=
  ∀ s t : State, s.Inv → s.ebc.fault = true → edge s = .next t →
    s.input.rst ≠ .high ∨ s.ebc.seq = .tRel ∨
      (t.ebc.fault = true ∧ t.ebc.faultCause = s.ebc.faultCause ∧ t.ebc.faultPin = s.ebc.faultPin ∧
        t.ebc.faultOp = s.ebc.faultOp ∧ t.ebc.phase = s.ebc.phase ∧
        (s.ebc.seq = .tCtl ∨ t.ebc.pincfg = s.ebc.pincfg))

/-- The bus sequences never raise HWF_DIRECTION (R125, R126, R141, R142): only PSET and PGET can. -/
def Obligations.SequencesKeepDirection : Prop :=
  ∀ s t : State, s.Inv → edge s = .next t → t.ebc.rspValid = true → t.ebc.rspStatus = .hwfDirection →
    s.ebc.seq = .pExec ∧ ∃ n, (∃ l, decode s.ebc.cmd = .ok (.pset n l)) ∨ decode s.ebc.cmd = .ok (.pget n)

/-! ## The phase machine -/

/-- R120: the only edges on which `PHASE` changes, and between which values. -/
def Obligations.PhaseChangesOnlyOnItsEdges : Prop :=
  ∀ s t : State, s.Inv → edge s = .next t → t.ebc.phase ≠ s.ebc.phase →
    (s.ebc.phase = .idle ∧ t.ebc.phase = .writeActive ∧ s.ebc.seq = .ewCe) ∨
    (s.ebc.phase = .idle ∧ t.ebc.phase = .readActive ∧ s.ebc.seq = .erOe) ∨
    (s.ebc.phase ≠ .idle ∧ t.ebc.phase = .idle ∧ s.ebc.seq = .xCe) ∨
    (t.ebc.phase = .idle ∧ s.ebc.seq = .tRel) ∨
    (t.ebc.phase = .idle ∧ s.input.rst ≠ .high)

/-- ENTW ends in exactly the state of R121, at e4 from IDLE and at e6 from an active phase (R124, R143). -/
def Obligations.EntwEntersWriteActive : Prop :=
  ∀ s : State, s.quiet → s.ebc.seq = .ready → s.ebc.fault = false → PhaseRow s.ebc.phase s.ebc.pincfg →
    ∃ t, exec .entw s = .next t ∧ Took (if s.ebc.phase = .idle then 5 else 7) s t ∧
      t.ebc = { s.ebc.done (encode .entw) 0 with pincfg := t.ebc.pincfg, phase := .writeActive } ∧
      EnteredWrite t.ebc.pincfg ∧
      (s.atRest → s.writeOff → SameCells s t ∧ t.atRest) ∧
      (DataDriveSafe s.ebc.pincfg → t.dev.contention = s.dev.contention)

/-- ENTR ends in exactly the state of R122, at e5 from IDLE and at e7 from an active phase (R124, R143). -/
def Obligations.EntrEntersReadActive : Prop :=
  ∀ s : State, s.quiet → s.ebc.seq = .ready → s.ebc.fault = false → PhaseRow s.ebc.phase s.ebc.pincfg →
    ∃ t, exec .entr s = .next t ∧ Took (if s.ebc.phase = .idle then 6 else 8) s t ∧
      t.ebc = { s.ebc.done (encode .entr) 0 with pincfg := t.ebc.pincfg, phase := .readActive } ∧
      EnteredRead t.ebc.pincfg ∧
      (s.atRest → s.writeOff → SameCells s t ∧ t.atRest) ∧
      (DataDriveSafe s.ebc.pincfg → t.dev.contention = s.dev.contention)

/-- EXIT (R123): from IDLE it completes at e0 with no pin change; from an active phase at e2 with OE̅ and CE̅ High and
every other pin as it was. -/
def Obligations.ExitLeavesThePhase : Prop :=
  ∀ s : State, s.quiet → s.ebc.seq = .ready → s.ebc.fault = false → PhaseRow s.ebc.phase s.ebc.pincfg →
    (s.ebc.phase = .idle → exec .exit s = .next (s.advance (s.ebc.done (encode .exit) 0))) ∧
    (s.ebc.phase ≠ .idle →
      ∃ t, exec .exit s = .next t ∧ Took 3 s t ∧
        t.ebc = { s.ebc.done (encode .exit) 0 with pincfg := t.ebc.pincfg, phase := .idle } ∧
        (∀ k, pinAt t.ebc.pincfg k =
          if k = pinOE ∨ k = pinCE then .output .high else pinAt s.ebc.pincfg k) ∧
        (s.atRest → SameCells s t) ∧
        t.dev.contention = s.dev.contention)

/-! ## Transfers -/

/-- WRB in WRITE_ACTIVE (R141, R143): the address and data lines end at its operands, WE̅ back at High, and it completes
OK at e(2+NS+NP+NR), whatever the device's timing. -/
def Obligations.WrbDrivesAndCompletes : Prop :=
  ∀ (s : State) (a d : Byte),
    s.quiet → s.ebc.seq = .ready → s.ebc.fault = false → s.ebc.phase = .writeActive → WritePins s.ebc.pincfg →
    ∃ t, exec (.wrb a d) s = .next t ∧
      Took (3 + (s.par.nSettle : Nat) + s.par.nPulse + s.par.nRecover) s t ∧
      t.ebc = { s.ebc.done (encode (.wrb a d)) 0 with
        pincfg := t.ebc.pincfg, addrR := a, wdataR := d, cnt := 0 } ∧
      (∀ i, pinAt t.ebc.pincfg (pinA i) = .output (Level.ofBit (a.getLsbD i))) ∧
      (∀ i, pinAt t.ebc.pincfg (pinIO i) = .output (Level.ofBit (d.getLsbD i))) ∧
      pinAt t.ebc.pincfg pinWE = .output .high ∧ pinAt t.ebc.pincfg pinOE = .output .high ∧
      pinAt t.ebc.pincfg pinCE = .output .low ∧ t.dev.contention = s.dev.contention

/-- The pad trace of a WRB (R143, R144), edge e_n being the (n+1)-th from `s`: the address lines change at e1, the data
lines at e2, WE̅ is Low from e(2+NS) until it rises at e(2+NS+NP), and the response comes at e(2+NS+NP+NR). -/
def Obligations.WrbPadTrace : Prop :=
  ∀ (s : State) (a d : Byte) (n : Nat),
    s.quiet → s.ebc.seq = .ready → s.ebc.fault = false → s.ebc.phase = .writeActive → WritePins s.ebc.pincfg →
    s.input.cmdValid = true → s.input.cmdWord = encode (.wrb a d) →
    n ≤ 2 + (s.par.nSettle : Nat) + s.par.nPulse + s.par.nRecover →
    ∃ t, edges (n + 1) s = .next t ∧
      (∀ i, pinAt t.ebc.pincfg (pinA i) =
        if 1 ≤ n then .output (Level.ofBit (a.getLsbD i)) else pinAt s.ebc.pincfg (pinA i)) ∧
      (∀ i, pinAt t.ebc.pincfg (pinIO i) =
        if 2 ≤ n then .output (Level.ofBit (d.getLsbD i)) else pinAt s.ebc.pincfg (pinIO i)) ∧
      pinAt t.ebc.pincfg pinWE =
        .output (if 2 + (s.par.nSettle : Nat) ≤ n ∧ n < 2 + (s.par.nSettle : Nat) + s.par.nPulse then .low
          else .high) ∧
      pinAt t.ebc.pincfg pinOE = .output .high ∧ pinAt t.ebc.pincfg pinCE = .output .low ∧
      (t.ebc.rspValid = true ↔ n = 2 + (s.par.nSettle : Nat) + s.par.nPulse + s.par.nRecover)

/-- Under TP, with the device at rest, a completed WRB has written its byte to its cell and no other cell (R54(a),
R59(a), R65), and the device is at rest again. -/
def Obligations.WrbWritesExactlyItsCell : Prop :=
  ∀ (s : State) (a d : Byte),
    s.quiet → s.ebc.seq = .ready → s.ebc.fault = false → s.ebc.phase = .writeActive → WritePins s.ebc.pincfg →
    TimingPremise s.par → s.atRest → Memory.wf s.par.mem0 s.dev.mem →
    ∃ t, exec (.wrb a d) s = .next t ∧ t.ebc.rspStatus = .ok ∧ t.atRest ∧
      ∀ b, t.cell b = if b = a then d else s.cell b

/-- However a WRB ends (abort, port error, reset, broken TP), no cell but the addressed one has changed by then
(R58(e), R201). -/
def Obligations.WrbNeverTouchesAnotherCell : Prop :=
  ∀ (s t : State) (a d : Byte),
    s.cmdReady = true → s.ebc.fault = false → s.ebc.phase = .writeActive → WritePins s.ebc.pincfg →
    s.atRest → Memory.wf s.par.mem0 s.dev.mem → exec (.wrb a d) s = .next t →
    ∀ b, b ≠ a → t.cell b = s.cell b

/-- RDB in READ_ACTIVE (R142, R143) completes OK at e(2+NA) with the address lines at its operand and no other pin
changed; with the device at rest no cell changes, and with `D_ACC ≤ N_ACCESS` it returns the cell (R59(b)). -/
def Obligations.RdbReadsItsCell : Prop :=
  ∀ (s : State) (a : Byte),
    s.quiet → s.ebc.seq = .ready → s.ebc.fault = false → s.ebc.phase = .readActive → ReadPins s.ebc.pincfg →
    ∃ t, exec (.rdb a) s = .next t ∧ Took (3 + (s.par.nAccess : Nat)) s t ∧
      t.ebc = { s.ebc.done (encode (.rdb a)) t.ebc.rspData with
        pincfg := t.ebc.pincfg, addrR := a, rdataR := t.ebc.rspData, cnt := 0 } ∧
      (∀ i, pinAt t.ebc.pincfg (pinA i) = .output (Level.ofBit (a.getLsbD i))) ∧
      (∀ k, inMask maskAddr k = false → pinAt t.ebc.pincfg k = pinAt s.ebc.pincfg k) ∧
      t.dev.contention = s.dev.contention ∧
      (s.atRest → SameCells s t ∧ t.atRest) ∧
      (s.atRest → s.par.dAcc ≤ (s.par.nAccess : Nat) → t.ebc.rspData = s.cell a)

/-- Round trip, address independence and sequential consistency at once (R64, R65, R66, R145): after any writes, in any
order, a read returns the latest byte written to its cell, or what the cell held before if none was. -/
def Obligations.ReadReturnsLatestWrite : Prop :=
  ∀ (s : State) (ws : List (Byte × Byte)) (b : Byte),
    s.quiet → s.ebc.seq = .ready → s.ebc.fault = false → PhaseRow s.ebc.phase s.ebc.pincfg →
    TimingPremise s.par → s.atRest → s.writeOff → Memory.wf s.par.mem0 s.dev.mem →
    ∃ t, commands (.entw :: ws.map (fun w => .wrb w.1 w.2) ++ [.entr, .rdb b]) s = .next t ∧
      t.ebc.rspStatus = .ok ∧ t.ebc.rspData = latestWrite ws b (s.cell b)

/-! ## The device -/

/-- A device read (R57): with the access times met, no pulse and no write cycle, each data net that the EBC does not
drive carries the bit of the addressed cell. -/
def Obligations.DeviceDrivesTheCell : Prop :=
  ∀ (s : State) (a : Byte) (i : Fin 8),
    s.seenLow pinCE = true → s.seenLow pinOE = true → s.seenLow pinWE = false → s.atRest →
    s.devAddr = some a → s.par.dAcc ≤ s.ageANow → s.par.dAcc ≤ s.ageSNow →
    (pinAt s.ebc.pincfg (pinIO i)).padOe = false →
    s.line (pinIO i) = if (s.cell a).getLsbD i then .high else .low

/-- Only a commit changes the array (R58): the end of a write cycle, or of a pulse where the cycle is one long; and a
commit with a latched address changes that cell alone. -/
def Obligations.OnlyACommitChangesCells : Prop :=
  ∀ (s : State) (b : Byte), s.Inv → memRead s.par.mem0 s.devStep.mem b ≠ s.cell b →
    (s.dev.wcLeft = 1 ∧ (s.dev.wcAddr = none ∨ s.dev.wcAddr = some b)) ∨
    (s.dev.inPulse = true ∧ s.pulseOn = false ∧ (s.par.dWc : Nat) = 1 ∧
      (s.dev.pAddr = none ∨ s.dev.pAddr = some b))

/-- "a driven-High WE̅ excludes every write, and a driven-High OE̅ or CE̅ excludes every device drive" (R60). -/
def Obligations.DrivenHighExcludes : Prop :=
  ∀ s : State,
    (pinAt s.ebc.pincfg pinWE = .output .high → s.pulseOn = false) ∧
    (pinAt s.ebc.pincfg pinCE = .output .high → s.pulseOn = false ∧ s.devDrives = false) ∧
    (pinAt s.ebc.pincfg pinOE = .output .high → s.devDrives = false)

/-- BUS_CONTENTION is set in the cycle of R62 and is never cleared, by reset neither (R62, R193). -/
def Obligations.ContentionIsSticky : Prop :=
  ∀ s t : State, edge s = .next t →
    (s.dev.contention = true → t.dev.contention = true) ∧
    (∀ i, s.devDrives = true → (pinAt s.ebc.pincfg (pinIO i)).padOe = true → t.dev.contention = true)

/-- Outside direct pin commands the EBC never contends (R127): a data line is driven only while OE̅ is driven High, every
edge but P_EXEC keeps it so, and such an edge does not set BUS_CONTENTION. -/
def Obligations.SequencesNeverContend : Prop :=
  ∀ s t : State, s.Inv → DataDriveSafe s.ebc.pincfg → s.ebc.seq ≠ .pExec → edge s = .next t →
    DataDriveSafe t.ebc.pincfg ∧ t.dev.contention = s.dev.contention

/-! ## Which edges write which registers -/

/-- R36, row by row, with R_ADDR of R142 as a writer of PINCFG and the fault entry of R171 as one of CNT
(notes/assumptions/18.md): from the registers that the edge finds, each changes only where its row lets it. `SEQ` and
`RSP_VALID` may change on every edge. -/
def Obligations.RegisterWriters : Prop :=
  ∀ (s t : State) (e : Ebc), edge s = .next t → s.atEdge = e →
    (s.input.rstN = false → t.ebc = Ebc.reset) ∧
    (s.input.rstN = true →
      (∀ k, pinAt t.ebc.pincfg k ≠ pinAt e.pincfg k →
        (inMask e.accessed k = true ∧ e.samples = false) ∨ (e.seq = .tCtl ∧ inMask maskCtrl k = true) ∨ e.seq = .tRel) ∧
      (t.ebc.phase ≠ e.phase → e.seq = .ewCe ∨ e.seq = .erOe ∨ e.seq = .xCe ∨ e.seq = .tRel) ∧
      (t.ebc.fault ≠ e.fault ∨ t.ebc.faultCause ≠ e.faultCause ∨ t.ebc.faultPin ≠ e.faultPin ∨
          t.ebc.faultOp ≠ e.faultOp →
        e.seq = .tRel ∨ (t.ebc.rspValid = true ∧ t.ebc.rspStatus.isHardwareFault = true)) ∧
      (t.ebc.cnt ≠ e.cnt →
        e.seq = .wData ∨ e.seq = .wSettle ∨ e.seq = .wPulse ∨ e.seq = .wRecover ∨ e.seq = .rAddr ∨
          e.seq = .rAccess ∨ (s.input.abort = true ∧ e.abortLatch = false) ∨
          (t.ebc.rspValid = true ∧ t.ebc.rspStatus.isHardwareFault = true)) ∧
      (t.ebc.cmd ≠ e.cmd → s.cmdReady = true ∧ s.input.cmdValid = true ∧ t.ebc.cmd = s.input.cmdWord) ∧
      (t.ebc.abortLatch ≠ e.abortLatch → t.ebc.abortLatch = s.input.abort) ∧
      (t.ebc.aborting ≠ e.aborting → (s.input.abort = true ∧ e.abortLatch = false) ∨ e.seq = .tRel) ∧
      (t.ebc.addrR ≠ e.addrR → s.cmdReady = true ∧ s.input.cmdValid = true ∧
        ((∃ d, decode s.input.cmdWord = .ok (.wrb t.ebc.addrR d)) ∨
          decode s.input.cmdWord = .ok (.rdb t.ebc.addrR))) ∧
      (t.ebc.wdataR ≠ e.wdataR → s.cmdReady = true ∧ s.input.cmdValid = true ∧
        ∃ a, decode s.input.cmdWord = .ok (.wrb a t.ebc.wdataR)) ∧
      (t.ebc.rdataR ≠ e.rdataR → e.seq = .rSample) ∧
      (t.ebc.rspStatus ≠ e.rspStatus ∨ t.ebc.rspData ≠ e.rspData → t.ebc.rspValid = true))

/-! ## The invariant -/

/-- The invariant holds right after reset. -/
def Obligations.InvariantAtReset : Prop := State.reset.Inv

/-- Every edge keeps the invariant, from every state that has it: the counter's bounds, the fault record, the phase
rows of R125, the canonical memory, the device's pulse and write cycle apart. -/
def Obligations.InvariantKeptByEdge : Prop :=
  ∀ s t : State, s.Inv → edge s = .next t → t.Inv

/-- Every step keeps the invariant. -/
def Obligations.InvariantKeptByStep : Prop :=
  ∀ s t : State, s.Inv → step s = .next t → t.Inv

/-- From a state with the invariant an edge always answers a next state: the model's one fault is out of reach. -/
def Obligations.NoEdgeFaults : Prop :=
  ∀ s : State, s.Inv → ∃ t, edge s = .next t

/-! ## Reset, between edges too -/

/-- "Reset overrides `abort`, a command in flight, a pending fault and any micro-state" (R190): where `rst_n` falls in
the cycle, the edge that closes it does the same whatever the registers held, but for the pads that the device has
seen. -/
def Obligations.ResetErasesTheRegisters : Prop :=
  ∀ (s : State) (e : Ebc), s.input.rst ≠ .high → e.pincfg = s.ebc.pincfg → edge { s with ebc := e } = edge s

/-- The first edge with `rst_n = 1` after a reset, be it the edge that closes the cycle of the fall (R191): it starts a
teardown if `abort = 1`, accepts the command presented if there is one, and else leaves the reset values. -/
def Obligations.FirstEdgeAfterReset : Prop :=
  ∀ s : State, s.atEdge = Ebc.reset → s.input.rstN = true →
    (s.input.abort = true →
      edge s = .next (s.advance { Ebc.reset with abortLatch := true, aborting := true, seq := .tCtl })) ∧
    (s.input.abort = false → s.cmdReady = true) ∧
    (s.input.abort = false → s.input.cmdValid = true →
      edge s = .next (s.advance (accept s.input.cmdWord Ebc.reset))) ∧
    (s.input.abort = false → s.input.cmdValid = false → edge s = .next (s.advance Ebc.reset))

/-! ## The teardown's first edge -/

/-- T_CTL (R108), of a PREL (`ABORTING = 0`) and of an abort (`ABORTING = 1`) alike, "no check, no port_err": each of
WE̅, OE̅ and CE̅ that is Output becomes Output High, a control line that is Input or Unclaimed and every other pin stay
as they were, `SEQ` goes to T_REL, and no other register changes but `RSP_VALID` and an `ABORT_LATCH` that `abort = 0`
clears. An `abort` that rises on this edge is the abort entry (statement AbortEntersTeardown). -/
def Obligations.TeardownDeassertsControls : Prop :=
  ∀ s : State, s.ebc.seq = .tCtl → s.input.rst = .high → (s.input.abort = true → s.ebc.abortLatch = true) →
    ∃ t, edge s = .next t ∧ Took 1 s t ∧
      t.ebc = { s.ebc with
        pincfg := t.ebc.pincfg, seq := .tRel, rspValid := false, abortLatch := s.input.abort } ∧
      ControlsDeasserted s.ebc.pincfg t.ebc.pincfg
end

