-- ==== Sys2Proof/Laws/State.lean ====
section
/-! SUPPORT. One lemma for each field of each register update, true by `rfl`: later proofs rewrite with these and unfold
no update. -/

namespace Sys2Proof.Machine

/-! ## `Ebc.respond` -/

section
variable (e : Ebc)

@[simp] theorem Ebc.respond_pincfg (st : Status) (d : Byte) : (e.respond st d).pincfg = e.pincfg := rfl
@[simp] theorem Ebc.respond_phase (st : Status) (d : Byte) : (e.respond st d).phase = e.phase := rfl
@[simp] theorem Ebc.respond_fault (st : Status) (d : Byte) : (e.respond st d).fault = e.fault := rfl
@[simp] theorem Ebc.respond_faultCause (st : Status) (d : Byte) : (e.respond st d).faultCause = e.faultCause := rfl
@[simp] theorem Ebc.respond_faultPin (st : Status) (d : Byte) : (e.respond st d).faultPin = e.faultPin := rfl
@[simp] theorem Ebc.respond_faultOp (st : Status) (d : Byte) : (e.respond st d).faultOp = e.faultOp := rfl
@[simp] theorem Ebc.respond_seq (st : Status) (d : Byte) : (e.respond st d).seq = e.seq := rfl
@[simp] theorem Ebc.respond_cnt (st : Status) (d : Byte) : (e.respond st d).cnt = e.cnt := rfl
@[simp] theorem Ebc.respond_cmd (st : Status) (d : Byte) : (e.respond st d).cmd = e.cmd := rfl
@[simp] theorem Ebc.respond_abortLatch (st : Status) (d : Byte) : (e.respond st d).abortLatch = e.abortLatch := rfl
@[simp] theorem Ebc.respond_aborting (st : Status) (d : Byte) : (e.respond st d).aborting = e.aborting := rfl
@[simp] theorem Ebc.respond_addrR (st : Status) (d : Byte) : (e.respond st d).addrR = e.addrR := rfl
@[simp] theorem Ebc.respond_wdataR (st : Status) (d : Byte) : (e.respond st d).wdataR = e.wdataR := rfl
@[simp] theorem Ebc.respond_rdataR (st : Status) (d : Byte) : (e.respond st d).rdataR = e.rdataR := rfl
@[simp] theorem Ebc.respond_rspValid (st : Status) (d : Byte) : (e.respond st d).rspValid = true := rfl
@[simp] theorem Ebc.respond_rspStatus (st : Status) (d : Byte) : (e.respond st d).rspStatus = st := rfl
@[simp] theorem Ebc.respond_rspData (st : Status) (d : Byte) : (e.respond st d).rspData = d := rfl

end

/-! ## `Ebc.complete` -/

section
variable (e : Ebc)

@[simp] theorem Ebc.complete_pincfg (d : Byte) : (e.complete d).pincfg = e.pincfg := rfl
@[simp] theorem Ebc.complete_phase (d : Byte) : (e.complete d).phase = e.phase := rfl
@[simp] theorem Ebc.complete_fault (d : Byte) : (e.complete d).fault = e.fault := rfl
@[simp] theorem Ebc.complete_faultCause (d : Byte) : (e.complete d).faultCause = e.faultCause := rfl
@[simp] theorem Ebc.complete_faultPin (d : Byte) : (e.complete d).faultPin = e.faultPin := rfl
@[simp] theorem Ebc.complete_faultOp (d : Byte) : (e.complete d).faultOp = e.faultOp := rfl
@[simp] theorem Ebc.complete_seq (d : Byte) : (e.complete d).seq = .ready := rfl
@[simp] theorem Ebc.complete_cnt (d : Byte) : (e.complete d).cnt = e.cnt := rfl
@[simp] theorem Ebc.complete_cmd (d : Byte) : (e.complete d).cmd = e.cmd := rfl
@[simp] theorem Ebc.complete_abortLatch (d : Byte) : (e.complete d).abortLatch = e.abortLatch := rfl
@[simp] theorem Ebc.complete_aborting (d : Byte) : (e.complete d).aborting = e.aborting := rfl
@[simp] theorem Ebc.complete_addrR (d : Byte) : (e.complete d).addrR = e.addrR := rfl
@[simp] theorem Ebc.complete_wdataR (d : Byte) : (e.complete d).wdataR = e.wdataR := rfl
@[simp] theorem Ebc.complete_rdataR (d : Byte) : (e.complete d).rdataR = e.rdataR := rfl
@[simp] theorem Ebc.complete_rspValid (d : Byte) : (e.complete d).rspValid = true := rfl
@[simp] theorem Ebc.complete_rspStatus (d : Byte) : (e.complete d).rspStatus = .ok := rfl
@[simp] theorem Ebc.complete_rspData (d : Byte) : (e.complete d).rspData = d := rfl

end

/-! ## `Ebc.raiseFault` -/

section
variable (e : Ebc)

@[simp] theorem Ebc.raiseFault_pincfg (c : Status) (q : BitVec 5) : (e.raiseFault c q).pincfg = e.pincfg := rfl
@[simp] theorem Ebc.raiseFault_phase (c : Status) (q : BitVec 5) : (e.raiseFault c q).phase = e.phase := rfl
@[simp] theorem Ebc.raiseFault_fault (c : Status) (q : BitVec 5) : (e.raiseFault c q).fault = true := rfl
@[simp] theorem Ebc.raiseFault_faultCause (c : Status) (q : BitVec 5) : (e.raiseFault c q).faultCause = c := rfl
@[simp] theorem Ebc.raiseFault_faultPin (c : Status) (q : BitVec 5) : (e.raiseFault c q).faultPin = q := rfl
@[simp] theorem Ebc.raiseFault_faultOp (c : Status) (q : BitVec 5) : (e.raiseFault c q).faultOp = opcodeOf e.cmd := rfl
@[simp] theorem Ebc.raiseFault_seq (c : Status) (q : BitVec 5) : (e.raiseFault c q).seq = .ready := rfl
@[simp] theorem Ebc.raiseFault_cnt (c : Status) (q : BitVec 5) : (e.raiseFault c q).cnt = 0 := rfl
@[simp] theorem Ebc.raiseFault_cmd (c : Status) (q : BitVec 5) : (e.raiseFault c q).cmd = e.cmd := rfl
@[simp] theorem Ebc.raiseFault_abortLatch (c : Status) (q : BitVec 5) : (e.raiseFault c q).abortLatch = e.abortLatch := rfl
@[simp] theorem Ebc.raiseFault_aborting (c : Status) (q : BitVec 5) : (e.raiseFault c q).aborting = e.aborting := rfl
@[simp] theorem Ebc.raiseFault_addrR (c : Status) (q : BitVec 5) : (e.raiseFault c q).addrR = e.addrR := rfl
@[simp] theorem Ebc.raiseFault_wdataR (c : Status) (q : BitVec 5) : (e.raiseFault c q).wdataR = e.wdataR := rfl
@[simp] theorem Ebc.raiseFault_rdataR (c : Status) (q : BitVec 5) : (e.raiseFault c q).rdataR = e.rdataR := rfl
@[simp] theorem Ebc.raiseFault_rspValid (c : Status) (q : BitVec 5) : (e.raiseFault c q).rspValid = true := rfl
@[simp] theorem Ebc.raiseFault_rspStatus (c : Status) (q : BitVec 5) : (e.raiseFault c q).rspStatus = c := rfl
@[simp] theorem Ebc.raiseFault_rspData (c : Status) (q : BitVec 5) : (e.raiseFault c q).rspData = 0 := rfl

end

/-! ## `Ebc.latch` -/

section
variable (e : Ebc)

@[simp] theorem Ebc.latch_pincfg (w : Word) : (e.latch w).pincfg = e.pincfg := rfl
@[simp] theorem Ebc.latch_phase (w : Word) : (e.latch w).phase = e.phase := rfl
@[simp] theorem Ebc.latch_fault (w : Word) : (e.latch w).fault = e.fault := rfl
@[simp] theorem Ebc.latch_faultCause (w : Word) : (e.latch w).faultCause = e.faultCause := rfl
@[simp] theorem Ebc.latch_faultPin (w : Word) : (e.latch w).faultPin = e.faultPin := rfl
@[simp] theorem Ebc.latch_faultOp (w : Word) : (e.latch w).faultOp = e.faultOp := rfl
@[simp] theorem Ebc.latch_seq (w : Word) : (e.latch w).seq = e.seq := rfl
@[simp] theorem Ebc.latch_cnt (w : Word) : (e.latch w).cnt = e.cnt := rfl
@[simp] theorem Ebc.latch_cmd (w : Word) : (e.latch w).cmd = w := rfl
@[simp] theorem Ebc.latch_abortLatch (w : Word) : (e.latch w).abortLatch = e.abortLatch := rfl
@[simp] theorem Ebc.latch_aborting (w : Word) : (e.latch w).aborting = e.aborting := rfl
@[simp] theorem Ebc.latch_addrR (w : Word) : (e.latch w).addrR = e.addrR := rfl
@[simp] theorem Ebc.latch_wdataR (w : Word) : (e.latch w).wdataR = e.wdataR := rfl
@[simp] theorem Ebc.latch_rdataR (w : Word) : (e.latch w).rdataR = e.rdataR := rfl
@[simp] theorem Ebc.latch_rspValid (w : Word) : (e.latch w).rspValid = e.rspValid := rfl
@[simp] theorem Ebc.latch_rspStatus (w : Word) : (e.latch w).rspStatus = e.rspStatus := rfl
@[simp] theorem Ebc.latch_rspData (w : Word) : (e.latch w).rspData = e.rspData := rfl

end

/-! ## `Ebc.answerIllegal` -/

section
variable (e : Ebc)

@[simp] theorem Ebc.answerIllegal_pincfg : (e.answerIllegal).pincfg = e.pincfg := rfl
@[simp] theorem Ebc.answerIllegal_phase : (e.answerIllegal).phase = e.phase := rfl
@[simp] theorem Ebc.answerIllegal_fault : (e.answerIllegal).fault = e.fault := rfl
@[simp] theorem Ebc.answerIllegal_faultCause : (e.answerIllegal).faultCause = e.faultCause := rfl
@[simp] theorem Ebc.answerIllegal_faultPin : (e.answerIllegal).faultPin = e.faultPin := rfl
@[simp] theorem Ebc.answerIllegal_faultOp : (e.answerIllegal).faultOp = e.faultOp := rfl
@[simp] theorem Ebc.answerIllegal_seq : (e.answerIllegal).seq = .ready := rfl
@[simp] theorem Ebc.answerIllegal_cnt : (e.answerIllegal).cnt = e.cnt := rfl
@[simp] theorem Ebc.answerIllegal_cmd : (e.answerIllegal).cmd = e.cmd := rfl
@[simp] theorem Ebc.answerIllegal_abortLatch : (e.answerIllegal).abortLatch = e.abortLatch := rfl
@[simp] theorem Ebc.answerIllegal_aborting : (e.answerIllegal).aborting = e.aborting := rfl
@[simp] theorem Ebc.answerIllegal_addrR : (e.answerIllegal).addrR = e.addrR := rfl
@[simp] theorem Ebc.answerIllegal_wdataR : (e.answerIllegal).wdataR = e.wdataR := rfl
@[simp] theorem Ebc.answerIllegal_rdataR : (e.answerIllegal).rdataR = e.rdataR := rfl
@[simp] theorem Ebc.answerIllegal_rspValid : (e.answerIllegal).rspValid = true := rfl
@[simp] theorem Ebc.answerIllegal_rspStatus : (e.answerIllegal).rspStatus = .illegal := rfl
@[simp] theorem Ebc.answerIllegal_rspData : (e.answerIllegal).rspData = 0 := rfl

end

/-! ## `Ebc.openEdge` -/

section
variable (e : Ebc)

@[simp] theorem Ebc.openEdge_pincfg (b : Bool) : (e.openEdge b).pincfg = e.pincfg := rfl
@[simp] theorem Ebc.openEdge_phase (b : Bool) : (e.openEdge b).phase = e.phase := rfl
@[simp] theorem Ebc.openEdge_fault (b : Bool) : (e.openEdge b).fault = e.fault := rfl
@[simp] theorem Ebc.openEdge_faultCause (b : Bool) : (e.openEdge b).faultCause = e.faultCause := rfl
@[simp] theorem Ebc.openEdge_faultPin (b : Bool) : (e.openEdge b).faultPin = e.faultPin := rfl
@[simp] theorem Ebc.openEdge_faultOp (b : Bool) : (e.openEdge b).faultOp = e.faultOp := rfl
@[simp] theorem Ebc.openEdge_seq (b : Bool) : (e.openEdge b).seq = e.seq := rfl
@[simp] theorem Ebc.openEdge_cnt (b : Bool) : (e.openEdge b).cnt = e.cnt := rfl
@[simp] theorem Ebc.openEdge_cmd (b : Bool) : (e.openEdge b).cmd = e.cmd := rfl
@[simp] theorem Ebc.openEdge_abortLatch (b : Bool) : (e.openEdge b).abortLatch = (e.abortLatch && b) := rfl
@[simp] theorem Ebc.openEdge_aborting (b : Bool) : (e.openEdge b).aborting = e.aborting := rfl
@[simp] theorem Ebc.openEdge_addrR (b : Bool) : (e.openEdge b).addrR = e.addrR := rfl
@[simp] theorem Ebc.openEdge_wdataR (b : Bool) : (e.openEdge b).wdataR = e.wdataR := rfl
@[simp] theorem Ebc.openEdge_rdataR (b : Bool) : (e.openEdge b).rdataR = e.rdataR := rfl
@[simp] theorem Ebc.openEdge_rspValid (b : Bool) : (e.openEdge b).rspValid = false := rfl
@[simp] theorem Ebc.openEdge_rspStatus (b : Bool) : (e.openEdge b).rspStatus = e.rspStatus := rfl
@[simp] theorem Ebc.openEdge_rspData (b : Bool) : (e.openEdge b).rspData = e.rspData := rfl

end

/-! ## `Ebc.abortEntry` -/

section
variable (e : Ebc)

@[simp] theorem Ebc.abortEntry_pincfg : (e.abortEntry).pincfg = e.pincfg := rfl
@[simp] theorem Ebc.abortEntry_phase : (e.abortEntry).phase = e.phase := rfl
@[simp] theorem Ebc.abortEntry_fault : (e.abortEntry).fault = e.fault := rfl
@[simp] theorem Ebc.abortEntry_faultCause : (e.abortEntry).faultCause = e.faultCause := rfl
@[simp] theorem Ebc.abortEntry_faultPin : (e.abortEntry).faultPin = e.faultPin := rfl
@[simp] theorem Ebc.abortEntry_faultOp : (e.abortEntry).faultOp = e.faultOp := rfl
@[simp] theorem Ebc.abortEntry_seq : (e.abortEntry).seq = .tCtl := rfl
@[simp] theorem Ebc.abortEntry_cnt : (e.abortEntry).cnt = 0 := rfl
@[simp] theorem Ebc.abortEntry_cmd : (e.abortEntry).cmd = e.cmd := rfl
@[simp] theorem Ebc.abortEntry_abortLatch : (e.abortEntry).abortLatch = true := rfl
@[simp] theorem Ebc.abortEntry_aborting : (e.abortEntry).aborting = true := rfl
@[simp] theorem Ebc.abortEntry_addrR : (e.abortEntry).addrR = e.addrR := rfl
@[simp] theorem Ebc.abortEntry_wdataR : (e.abortEntry).wdataR = e.wdataR := rfl
@[simp] theorem Ebc.abortEntry_rdataR : (e.abortEntry).rdataR = e.rdataR := rfl
@[simp] theorem Ebc.abortEntry_rspValid : (e.abortEntry).rspValid = e.rspValid := rfl
@[simp] theorem Ebc.abortEntry_rspStatus : (e.abortEntry).rspStatus = e.rspStatus := rfl
@[simp] theorem Ebc.abortEntry_rspData : (e.abortEntry).rspData = e.rspData := rfl

end

/-! ## `Ebc.teardownControls` -/

section
variable (e : Ebc)

@[simp] theorem Ebc.teardownControls_pincfg : (e.teardownControls).pincfg = deassertControls e.pincfg := by
  simp only [Ebc.teardownControls]
@[simp] theorem Ebc.teardownControls_phase : (e.teardownControls).phase = e.phase := by
  simp only [Ebc.teardownControls]
@[simp] theorem Ebc.teardownControls_fault : (e.teardownControls).fault = e.fault := by
  simp only [Ebc.teardownControls]
@[simp] theorem Ebc.teardownControls_faultCause : (e.teardownControls).faultCause = e.faultCause := by
  simp only [Ebc.teardownControls]
@[simp] theorem Ebc.teardownControls_faultPin : (e.teardownControls).faultPin = e.faultPin := by
  simp only [Ebc.teardownControls]
@[simp] theorem Ebc.teardownControls_faultOp : (e.teardownControls).faultOp = e.faultOp := by
  simp only [Ebc.teardownControls]
@[simp] theorem Ebc.teardownControls_seq : (e.teardownControls).seq = .tRel := by
  simp only [Ebc.teardownControls]
@[simp] theorem Ebc.teardownControls_cnt : (e.teardownControls).cnt = e.cnt := by
  simp only [Ebc.teardownControls]
@[simp] theorem Ebc.teardownControls_cmd : (e.teardownControls).cmd = e.cmd := by
  simp only [Ebc.teardownControls]
@[simp] theorem Ebc.teardownControls_abortLatch : (e.teardownControls).abortLatch = e.abortLatch := by
  simp only [Ebc.teardownControls]
@[simp] theorem Ebc.teardownControls_aborting : (e.teardownControls).aborting = e.aborting := by
  simp only [Ebc.teardownControls]
@[simp] theorem Ebc.teardownControls_addrR : (e.teardownControls).addrR = e.addrR := by
  simp only [Ebc.teardownControls]
@[simp] theorem Ebc.teardownControls_wdataR : (e.teardownControls).wdataR = e.wdataR := by
  simp only [Ebc.teardownControls]
@[simp] theorem Ebc.teardownControls_rdataR : (e.teardownControls).rdataR = e.rdataR := by
  simp only [Ebc.teardownControls]
@[simp] theorem Ebc.teardownControls_rspValid : (e.teardownControls).rspValid = e.rspValid := by
  simp only [Ebc.teardownControls]
@[simp] theorem Ebc.teardownControls_rspStatus : (e.teardownControls).rspStatus = e.rspStatus := by
  simp only [Ebc.teardownControls]
@[simp] theorem Ebc.teardownControls_rspData : (e.teardownControls).rspData = e.rspData := by
  simp only [Ebc.teardownControls]

end

/-! ## `Ebc.teardownRelease` -/

section
variable (e : Ebc)

@[simp] theorem Ebc.teardownRelease_pincfg : (e.teardownRelease).pincfg = releasedPins := rfl
@[simp] theorem Ebc.teardownRelease_phase : (e.teardownRelease).phase = .idle := rfl
@[simp] theorem Ebc.teardownRelease_fault : (e.teardownRelease).fault = false := rfl
@[simp] theorem Ebc.teardownRelease_faultCause : (e.teardownRelease).faultCause = .ok := rfl
@[simp] theorem Ebc.teardownRelease_faultPin : (e.teardownRelease).faultPin = 0 := rfl
@[simp] theorem Ebc.teardownRelease_faultOp : (e.teardownRelease).faultOp = 0 := rfl
@[simp] theorem Ebc.teardownRelease_seq : (e.teardownRelease).seq = .ready := rfl
@[simp] theorem Ebc.teardownRelease_cnt : (e.teardownRelease).cnt = e.cnt := rfl
@[simp] theorem Ebc.teardownRelease_cmd : (e.teardownRelease).cmd = e.cmd := rfl
@[simp] theorem Ebc.teardownRelease_abortLatch : (e.teardownRelease).abortLatch = e.abortLatch := rfl
@[simp] theorem Ebc.teardownRelease_aborting : (e.teardownRelease).aborting = false := rfl
@[simp] theorem Ebc.teardownRelease_addrR : (e.teardownRelease).addrR = e.addrR := rfl
@[simp] theorem Ebc.teardownRelease_wdataR : (e.teardownRelease).wdataR = e.wdataR := rfl
@[simp] theorem Ebc.teardownRelease_rdataR : (e.teardownRelease).rdataR = e.rdataR := rfl
@[simp] theorem Ebc.teardownRelease_rspValid : (e.teardownRelease).rspValid = true := rfl
@[simp] theorem Ebc.teardownRelease_rspStatus : (e.teardownRelease).rspStatus = (if e.aborting then .aborted else .ok) := rfl
@[simp] theorem Ebc.teardownRelease_rspData : (e.teardownRelease).rspData = 0 := rfl

end

/-! ## `State.advance` -/

section
variable (s : State) (e : Ebc)

@[simp] theorem State.advance_par : (s.advance e).par = s.par := rfl
@[simp] theorem State.advance_ebc : (s.advance e).ebc = e := rfl
@[simp] theorem State.advance_dev : (s.advance e).dev = s.devStep := rfl
@[simp] theorem State.advance_inputs : (s.advance e).inputs = s.inputs.tail := rfl
@[simp] theorem State.advance_tick : (s.advance e).tick = s.tick + 1 := rfl
@[simp] theorem State.pin_def (k : Pin) : s.pin k = pinAt s.ebc.pincfg k := rfl

@[simp] theorem State.ctx_par : s.ctx.par = s.par := rfl
@[simp] theorem State.ctx_portErr : s.ctx.portErr = s.input.portErr := rfl
@[simp] theorem State.ctx_sample : s.ctx.sample = s.sample := rfl

end

/-! ## Inputs and outputs -/

@[simp] theorem EdgeIn.idle_rst : EdgeIn.idle.rst = .high := rfl
@[simp] theorem EdgeIn.idle_rstN : EdgeIn.idle.rstN = true := rfl
@[simp] theorem EdgeIn.idle_abort : EdgeIn.idle.abort = false := rfl
@[simp] theorem EdgeIn.idle_cmdValid : EdgeIn.idle.cmdValid = false := rfl
@[simp] theorem EdgeIn.idle_cmdWord : EdgeIn.idle.cmdWord = 0 := rfl
@[simp] theorem EdgeIn.idle_portErr : EdgeIn.idle.portErr = false := rfl

section
variable (e : Ebc) (abort rstN : Bool)

@[simp] theorem Ebc.outputs_cmdReady :
    (e.outputs abort rstN).cmdReady = (e.seq == .ready && !abort && rstN) := rfl
@[simp] theorem Ebc.outputs_rspValid : (e.outputs abort rstN).rspValid = e.rspValid := rfl
@[simp] theorem Ebc.outputs_rspStatus : (e.outputs abort rstN).rspStatus = e.rspStatus.code := rfl
@[simp] theorem Ebc.outputs_rspData : (e.outputs abort rstN).rspData = e.rspData := rfl
@[simp] theorem Ebc.outputs_status : (e.outputs abort rstN).status = statusWord e := rfl
@[simp] theorem Ebc.outputs_pincfg : (e.outputs abort rstN).pincfg = pincfgWord e.pincfg := rfl
@[simp] theorem Ebc.outputs_padSel : (e.outputs abort rstN).padSel = padBus PinCfg.padSel e.pincfg := rfl
@[simp] theorem Ebc.outputs_padOe : (e.outputs abort rstN).padOe = padBus PinCfg.padOe e.pincfg := rfl
@[simp] theorem Ebc.outputs_padO : (e.outputs abort rstN).padO = padBus PinCfg.padO e.pincfg := rfl
@[simp] theorem Ebc.outputs_padPu : (e.outputs abort rstN).padPu = padBus PinCfg.padPu e.pincfg := rfl

end

/-! ## The device's edge -/

section
variable (s : State)

@[simp] theorem State.devStep_ageA : s.devStep.ageA = s.ageANow := by
  simp only [State.devStep]
@[simp] theorem State.devStep_ageD : s.devStep.ageD = s.ageDNow := by
  simp only [State.devStep]
@[simp] theorem State.devStep_ageS : s.devStep.ageS = s.ageSNow := by
  simp only [State.devStep]
@[simp] theorem State.devStep_prevAddr : s.devStep.prevAddr = s.devAddr := by
  simp only [State.devStep]
@[simp] theorem State.devStep_prevData : s.devStep.prevData = s.devData := by
  simp only [State.devStep]
@[simp] theorem State.devStep_contention : s.devStep.contention = (s.dev.contention || s.contends) := by
  simp only [State.devStep]
@[simp] theorem State.devStep_mem : s.devStep.mem = (s.devPulse s.devWriteCycle).mem := by
  simp only [State.devStep]
@[simp] theorem State.devStep_wcLeft : s.devStep.wcLeft = (s.devPulse s.devWriteCycle).wcLeft := by
  simp only [State.devStep]
@[simp] theorem State.devStep_wcAddr : s.devStep.wcAddr = (s.devPulse s.devWriteCycle).wcAddr := by
  simp only [State.devStep]
@[simp] theorem State.devStep_wcData : s.devStep.wcData = (s.devPulse s.devWriteCycle).wcData := by
  simp only [State.devStep]
@[simp] theorem State.devStep_wcOk : s.devStep.wcOk = (s.devPulse s.devWriteCycle).wcOk := by
  simp only [State.devStep]
@[simp] theorem State.devStep_inPulse : s.devStep.inPulse = (s.devPulse s.devWriteCycle).inPulse := by
  simp only [State.devStep]
@[simp] theorem State.devStep_pLen : s.devStep.pLen = (s.devPulse s.devWriteCycle).pLen := by
  simp only [State.devStep]
@[simp] theorem State.devStep_pAddr : s.devStep.pAddr = (s.devPulse s.devWriteCycle).pAddr := by
  simp only [State.devStep]
@[simp] theorem State.devStep_pData : s.devStep.pData = (s.devPulse s.devWriteCycle).pData := by
  simp only [State.devStep]
@[simp] theorem State.devStep_pBad : s.devStep.pBad = (s.devPulse s.devWriteCycle).pBad := by
  simp only [State.devStep]

end

end Sys2Proof.Machine
end

