-- ==== Sys2Proof/Laws/Pins.lean ====
section
/-! SUPPORT. What the pin primitives do, pin by pin, and where each group lies (spec/40_gpio.md R101 to R104,
10_state.md R24). -/

namespace Sys2Proof.Machine

/-! ## Which pins a group holds -/

section
variable (i : Fin 8)

@[simp] theorem inMask_addr_A : inMask maskAddr (pinA i) = true := by revert i; decide
@[simp] theorem inMask_addr_IO : inMask maskAddr (pinIO i) = false := by revert i; decide
@[simp] theorem inMask_addr_WE : inMask maskAddr pinWE = false := by decide
@[simp] theorem inMask_addr_OE : inMask maskAddr pinOE = false := by decide
@[simp] theorem inMask_addr_CE : inMask maskAddr pinCE = false := by decide
@[simp] theorem inMask_data_A : inMask maskData (pinA i) = false := by revert i; decide
@[simp] theorem inMask_data_IO : inMask maskData (pinIO i) = true := by revert i; decide
@[simp] theorem inMask_data_WE : inMask maskData pinWE = false := by decide
@[simp] theorem inMask_data_OE : inMask maskData pinOE = false := by decide
@[simp] theorem inMask_data_CE : inMask maskData pinCE = false := by decide
@[simp] theorem inMask_ctrl_A : inMask maskCtrl (pinA i) = false := by revert i; decide
@[simp] theorem inMask_ctrl_IO : inMask maskCtrl (pinIO i) = false := by revert i; decide
@[simp] theorem inMask_ctrl_WE : inMask maskCtrl pinWE = true := by decide
@[simp] theorem inMask_ctrl_OE : inMask maskCtrl pinOE = true := by decide
@[simp] theorem inMask_ctrl_CE : inMask maskCtrl pinCE = true := by decide

/-- A pin is the only member of its own set. -/
@[simp] theorem inMask_maskPin (k j : Pin) : inMask (maskPin k) j = decide (j = k) := by
  revert k j; decide

@[simp] theorem inMask_zero (k : Pin) : inMask 0#19 k = false := by simp [inMask]

@[simp] theorem pinA_ne_WE : pinA i ≠ pinWE := by revert i; decide
@[simp] theorem pinA_ne_OE : pinA i ≠ pinOE := by revert i; decide
@[simp] theorem pinA_ne_CE : pinA i ≠ pinCE := by revert i; decide
@[simp] theorem pinIO_ne_WE : pinIO i ≠ pinWE := by revert i; decide
@[simp] theorem pinIO_ne_OE : pinIO i ≠ pinOE := by revert i; decide
@[simp] theorem pinIO_ne_CE : pinIO i ≠ pinCE := by revert i; decide
@[simp] theorem pinWE_ne_OE : pinWE ≠ pinOE := by decide
@[simp] theorem pinWE_ne_CE : pinWE ≠ pinCE := by decide
@[simp] theorem pinOE_ne_WE : pinOE ≠ pinWE := by decide
@[simp] theorem pinOE_ne_CE : pinOE ≠ pinCE := by decide
@[simp] theorem pinCE_ne_WE : pinCE ≠ pinWE := by decide
@[simp] theorem pinCE_ne_OE : pinCE ≠ pinOE := by decide

/-- Bit i of an address lies on A`i` (00_scope.md R9). -/
@[simp] theorem inMask_onAddrLines (a : Byte) : inMask (onAddrLines a) (pinA i) = a.getLsbD i := by
  have h : i.val < 19 := by omega
  simp [inMask, onAddrLines, pinA, h]

/-- Bit i of a data byte lies on IO`i` (00_scope.md R9). -/
@[simp] theorem inMask_onDataLines (d : Byte) : inMask (onDataLines d) (pinIO i) = d.getLsbD i := by
  have h : i.val + 8 < 19 := by omega
  simp [inMask, onDataLines, pinIO, h]

end

/-- Every pin is one of A`i`, IO`i`, WE̅, OE̅, CE̅ (R24). -/
theorem pin_cases (k : Pin) :
    (∃ i, k = pinA i) ∨ (∃ i, k = pinIO i) ∨ k = pinWE ∨ k = pinOE ∨ k = pinCE := by
  revert k; decide

/-! ## The pin-wise effect of the primitives -/

@[simp] theorem configurePins_pin (m : PinMask) (md : Mode) (b : Bool) (p : Pins) (k : Pin) :
    pinAt (configurePins m md b p) k = if inMask m k then PinCfg.make md b else pinAt p k := by
  simp [configurePins, pinAt]

@[simp] theorem drivePins_pin (m v : PinMask) (p : Pins) (k : Pin) :
    pinAt (drivePins m v p) k = if inMask m k then .output (Level.ofBit (inMask v k)) else pinAt p k := by
  simp [drivePins, pinAt]

@[simp] theorem deassertControls_pin (p : Pins) (k : Pin) :
    pinAt (deassertControls p) k = deassertControl k (pinAt p k) := by
  simp [deassertControls, pinAt]

@[simp] theorem releasedPins_pin (k : Pin) : pinAt releasedPins k = .unclaimed := by
  simp [releasedPins, pinAt]

/-- Two pin files are equal when every pin is. -/
theorem pins_ext {p q : Pins} (h : ∀ k : Pin, pinAt p k = (pinAt q k)) : p = q :=
  Vector.ext fun i hi => h ⟨i, hi⟩

@[simp] theorem inMask_samplePins (m : PinMask) (f : Pin → Bool) (k : Pin) :
    inMask (samplePins m f) k = (inMask m k && f k) := by
  simp [inMask, samplePins]

@[simp] theorem Level.ofBit_true : Level.ofBit true = .high := rfl
@[simp] theorem Level.ofBit_false : Level.ofBit false = .low := rfl
@[simp] theorem Level.ofBit_bit (l : Level) : Level.ofBit l.bit = l := by cases l <;> rfl
@[simp] theorem Level.bit_ofBit (b : Bool) : (Level.ofBit b).bit = b := by cases b <;> rfl
@[simp] theorem isOutput_output (l : Level) : (PinCfg.output l).isOutput = true := rfl
@[simp] theorem isOutput_input (q : Pull) : (PinCfg.input q).isOutput = false := rfl
@[simp] theorem isInput_input (q : Pull) : (PinCfg.input q).isInput = true := rfl
@[simp] theorem make_output (b : Bool) : PinCfg.make .output b = .output (Level.ofBit b) := rfl
@[simp] theorem make_input_true : PinCfg.make .input true = .input .up := rfl
@[simp] theorem make_input_false : PinCfg.make .input false = .input .none := rfl

/-! ## The checks -/

@[simp] theorem portFault_false (m : PinMask) : portFault m false = none := rfl

/-- `lowestWhere` finds a pin with the property, and no lower one has it. -/
theorem lowestWhere_some {f : Pin → Bool} {k : Pin} (h : lowestWhere f = some k) :
    f k = true ∧ ∀ j, j < k → f j = false := by
  unfold lowestWhere at h
  obtain ⟨hk, as, bs, hsplit, hbefore⟩ := List.find?_eq_some_iff_append.mp h
  refine ⟨hk, fun j hj => ?_⟩
  have hlt : (as ++ k :: bs).Pairwise (· < ·) := hsplit ▸ List.pairwise_lt_finRange 19
  have hmem : j ∈ as ++ k :: bs := hsplit ▸ List.mem_finRange j
  rcases List.mem_append.mp hmem with ha | hb
  · simpa using hbefore j ha
  · rcases List.mem_cons.mp hb with rfl | hb
    · exact absurd hj (lt_irrefl _)
    · have := (List.pairwise_append.mp hlt).2.1
      exact absurd (List.rel_of_pairwise_cons this hb) (not_lt.mpr hj.le)

theorem lowestWhere_none {f : Pin → Bool} : lowestWhere f = none ↔ ∀ k, f k = false := by
  simp [lowestWhere, List.find?_eq_none]

/-- No direction fault means that every pin of M has the wanted direction. -/
theorem directionFault_none {m : PinMask} {f : PinCfg → Bool} {p : Pins} :
    directionFault m f p = none ↔ ∀ k, inMask m k = true → f (pinAt p k) = true := by
  simp [directionFault, lowestWhere_none]

/-- `cfg` without a port error (R101). -/
@[simp] theorem cfgPins_quiet (m : PinMask) (md : Mode) (b : Bool) (p : Pins) :
    cfgPins m md b false p = .ok (configurePins m md b p) := rfl

/-- `set` on Output pins without a port error (R102). -/
theorem setPins_quiet {m v : PinMask} {p : Pins} (h : ∀ k, inMask m k = true → (pinAt p k).isOutput = true) :
    setPins m v false p = .ok (drivePins m v p) := by
  simp [setPins, directionFault_none.mpr h]

/-- `get` on Input pins without a port error (R103). -/
theorem getPins_quiet {m : PinMask} {f : Pin → Bool} {p : Pins}
    (h : ∀ k, inMask m k = true → (pinAt p k).isInput = true) :
    getPins m false f p = .ok (samplePins m f) := by
  simp [getPins, directionFault_none.mpr h]

/-- All that `cfg` can answer. -/
theorem cfgPins_cases (m : PinMask) (md : Mode) (b pe : Bool) (p : Pins) :
    cfgPins m md b pe p = .ok (configurePins m md b p) ∨
      ∃ k, pe = true ∧ lowestPin m = some k ∧ cfgPins m md b pe p = .error ⟨.hwfPort, k⟩ := by
  cases pe with
  | false => exact .inl rfl
  | true => cases h : lowestPin m <;> simp [cfgPins, portFault, h]

/-- All that `set` can answer. -/
theorem setPins_cases (m v : PinMask) (pe : Bool) (p : Pins) :
    ((∀ k, inMask m k = true → (pinAt p k).isOutput = true) ∧ setPins m v pe p = .ok (drivePins m v p)) ∨
      (∃ k, inMask m k = true ∧ (pinAt p k).isOutput = false ∧ setPins m v pe p = .error ⟨.hwfDirection, k⟩) ∨
      ((∀ k, inMask m k = true → (pinAt p k).isOutput = true) ∧
        ∃ k, pe = true ∧ lowestPin m = some k ∧ setPins m v pe p = .error ⟨.hwfPort, k⟩) := by
  cases hd : lowestWhere fun k => inMask m k && !(pinAt p k).isOutput with
  | some k =>
    have := (lowestWhere_some hd).1
    refine .inr (.inl ⟨k, ?_⟩)
    simp_all [setPins, directionFault]
  | none =>
    have h : directionFault m PinCfg.isOutput p = none := by simp [directionFault, hd]
    have hall := directionFault_none.mp h
    cases pe with
    | false => exact .inl ⟨hall, by simp [setPins, h]⟩
    | true =>
      cases hl : lowestPin m with
      | none => exact .inl ⟨hall, by simp [setPins, h, portFault, hl]⟩
      | some k => exact .inr (.inr ⟨hall, k, rfl, rfl, by simp [setPins, h, portFault, hl]⟩)

/-- All that `get` can answer. -/
theorem getPins_cases (m : PinMask) (pe : Bool) (f : Pin → Bool) (p : Pins) :
    ((∀ k, inMask m k = true → (pinAt p k).isInput = true) ∧ getPins m pe f p = .ok (samplePins m f)) ∨
      (∃ k, inMask m k = true ∧ (pinAt p k).isInput = false ∧ getPins m pe f p = .error ⟨.hwfDirection, k⟩) ∨
      ((∀ k, inMask m k = true → (pinAt p k).isInput = true) ∧
        ∃ k, pe = true ∧ lowestPin m = some k ∧ getPins m pe f p = .error ⟨.hwfPort, k⟩) := by
  cases hd : lowestWhere fun k => inMask m k && !(pinAt p k).isInput with
  | some k =>
    have := (lowestWhere_some hd).1
    refine .inr (.inl ⟨k, ?_⟩)
    simp_all [getPins, directionFault]
  | none =>
    have h : directionFault m PinCfg.isInput p = none := by simp [directionFault, hd]
    have hall := directionFault_none.mp h
    cases pe with
    | false => exact .inl ⟨hall, by simp [getPins, h]⟩
    | true =>
      cases hl : lowestPin m with
      | none => exact .inl ⟨hall, by simp [getPins, h, portFault, hl]⟩
      | some k => exact .inr (.inr ⟨hall, k, rfl, rfl, by simp [getPins, h, portFault, hl]⟩)

@[simp] theorem afterPins_ok {α : Type} (e : Ebc) (a : α) (k : α → Ebc) : e.afterPins (.ok a) k = k a := rfl
@[simp] theorem afterPins_error {α : Type} (e : Ebc) (f : PinFault) (k : α → Ebc) :
    e.afterPins (.error f) k = e.raiseFault f.cause (pinField f.pin) := rfl

end Sys2Proof.Machine
end

