-- ==== Sys2Proof/Laws/Edge.lean ====
section
/-! SUPPORT. What an edge and a run of edges can do (spec/30_encoding.md R92): the cases of an edge, once; edges
without reset, abort and port error; how runs compose. -/

namespace Sys2Proof.Machine

/-! ## The registers that an edge finds -/

section
variable {s : State}

/-- Without a fall of `rst_n` an edge finds the registers as the last one left them. -/
theorem State.atEdge_high (h : s.input.rst = .high) : s.atEdge = s.ebc := by
  simp [State.atEdge, h]

/-- After a fall of `rst_n` it finds them at their reset values (70_reset_and_hazards.md R190). -/
theorem State.atEdge_fallen (h : s.input.rst ≠ .high) : s.atEdge = Ebc.reset := by
  unfold State.atEdge
  split
  · contradiction
  · rfl
  · rfl

/-- All that an edge can find. -/
theorem State.atEdge_cases (s : State) :
    (s.input.rst = .high ∧ s.atEdge = s.ebc) ∨ (s.input.rst ≠ .high ∧ s.atEdge = Ebc.reset) := by
  by_cases h : s.input.rst = .high
  · exact .inl ⟨h, State.atEdge_high h⟩
  · exact .inr ⟨h, State.atEdge_fallen h⟩

/-- Where the last edge left READY the next finds READY, reset or not. -/
theorem State.atEdge_ready (h : s.ebc.seq = .ready) : s.atEdge.seq = .ready := by
  rcases s.atEdge_cases with ⟨_, he⟩ | ⟨_, he⟩ <;> simp [he, h, Ebc.reset]

theorem rstN_of_high (h : s.input.rst = .high) : s.input.rstN = true := by
  simp [EdgeIn.rstN, h]

end

/-! ## One edge -/

/-- An edge with `rst_n = 0` (70_reset_and_hazards.md R190). -/
theorem edge_reset {s : State} (h : s.input.rstN = false) : edge s = .next (s.advance Ebc.reset) := by
  simp [edge, h]

/-- An edge with `rst_n = 1`. -/
theorem edge_running {s : State} (h : s.input.rstN = true) :
    edge s = match ebcEdge s.ctx s.input s.atEdge with
      | some e => .next (s.advance e)
      | none => .fault .noMicroOperation := by
  unfold edge
  exact if_pos h

/-- All that an edge can answer with a next state. -/
theorem edge_next {s t : State} (h : edge s = .next t) :
    (s.input.rstN = false ∧ t = s.advance Ebc.reset) ∨
      (s.input.rstN = true ∧ ∃ e, ebcEdge s.ctx s.input s.atEdge = some e ∧ t = s.advance e) := by
  cases hr : s.input.rstN with
  | false =>
    rw [edge_reset hr] at h
    exact .inl ⟨rfl, (Host.Outcome.next.inj h).symm⟩
  | true =>
    rw [edge_running hr] at h
    cases he : ebcEdge s.ctx s.input s.atEdge with
    | none => simp [he] at h
    | some e =>
      simp only [he, Host.Outcome.next.injEq] at h
      exact .inr ⟨rfl, e, rfl, h.symm⟩

/-- All that the EBC's part of an edge can be: the abort entry, READY with or without an acceptance, a micro-state. -/
theorem ebcEdge_some {x : EdgeCtx} {inp : EdgeIn} {e e' : Ebc} (h : ebcEdge x inp e = some e') :
    (inp.abort = true ∧ e.abortLatch = false ∧ e' = (e.openEdge true).abortEntry) ∨
      (e.seq = .ready ∧ inp.abort = false ∧ inp.cmdValid = true ∧
        e' = accept inp.cmdWord (e.openEdge false)) ∨
      (e.seq = .ready ∧ (inp.abort = true → e.abortLatch = true) ∧ (inp.cmdValid = false ∨ inp.abort = true) ∧
        e' = e.openEdge inp.abort) ∨
      (e.seq ≠ .ready ∧ (inp.abort = true → e.abortLatch = true) ∧
        microOp x (e.openEdge inp.abort) = some e') := by
  unfold ebcEdge at h
  cases ha : inp.abort <;> cases hl : e.abortLatch <;> by_cases hs : e.seq = .ready <;>
    cases hv : inp.cmdValid <;> simp_all

/-- No edge is ever refused. -/
theorem edge_not_refused (s : State) (r : Refusal) : edge s ≠ .refused r := by
  unfold edge
  split
  · split <;> simp
  · simp

/-! ## Quiet edges -/

theorem input_mem_or_idle (s : State) : s.input ∈ s.inputs ∨ (s.inputs = [] ∧ s.input = EdgeIn.idle) := by
  unfold State.input
  cases s.inputs <;> simp

theorem input_quiet {s : State} (h : s.quiet) :
    s.input.rst = .high ∧ s.input.abort = false ∧ s.input.portErr = false := by
  rcases input_mem_or_idle s with hm | ⟨_, hi⟩
  · exact h _ hm
  · simp [hi, EdgeIn.idle]

theorem input_undisturbed {s : State} (h : s.undisturbed) : s.input.rst = .high ∧ s.input.abort = false := by
  rcases input_mem_or_idle s with hm | ⟨_, hi⟩
  · exact h _ hm
  · simp [hi, EdgeIn.idle]

theorem quiet_undisturbed {s : State} (h : s.quiet) : s.undisturbed :=
  fun e he => ⟨(h e he).1, (h e he).2.1⟩

theorem quiet_advance {s : State} (h : s.quiet) (e : Ebc) : (s.advance e).quiet :=
  fun x hx => h x (List.mem_of_mem_tail hx)

theorem undisturbed_advance {s : State} (h : s.undisturbed) (e : Ebc) : (s.advance e).undisturbed :=
  fun x hx => h x (List.mem_of_mem_tail hx)

/-- In a micro-state, with no reset and no abort, an edge is the micro-state's action. -/
theorem edge_micro {s : State} (hr : s.input.rst = .high) (ha : s.input.abort = false) (hs : s.ebc.seq ≠ .ready) :
    edge s = match microOp s.ctx (s.ebc.openEdge false) with
      | some e => .next (s.advance e)
      | none => .fault .noMicroOperation := by
  simp [edge_running (rstN_of_high hr), State.atEdge_high hr, ebcEdge, ha, hs]

/-- In READY with no reset, no abort and no command, an edge changes no register but the response and abort bits. -/
theorem edge_waits {s : State} (hr : s.input.rstN = true) (ha : s.input.abort = false)
    (hs : s.atEdge.seq = .ready) (hv : s.input.cmdValid = false) :
    edge s = .next (s.advance (s.atEdge.openEdge false)) := by
  simp [edge_running hr, ebcEdge, ha, hs, hv]

/-- In READY with `cmd_ready` and a word on the port, an edge is its acceptance. -/
theorem edge_accepts {s : State} (h : s.cmdReady = true) (hv : s.input.cmdValid = true) :
    edge s = .next (s.advance (accept s.input.cmdWord (s.atEdge.openEdge false))) := by
  simp only [State.cmdReady, Bool.and_eq_true, beq_iff_eq, Bool.not_eq_true'] at h
  obtain ⟨⟨hs, ha⟩, hr⟩ := h
  simp [edge_running hr, ebcEdge, ha, hs, hv]

theorem cmdReady_iff (s : State) :
    s.cmdReady = true ↔ s.atEdge.seq = .ready ∧ s.input.abort = false ∧ s.input.rstN = true := by
  simp [State.cmdReady, and_assoc]

theorem cmdReady_of_undisturbed {s : State} (h : s.undisturbed) (hs : s.ebc.seq = .ready) :
    s.cmdReady = true :=
  have hr := (input_undisturbed h).1
  (cmdReady_iff s).mpr ⟨by rwa [State.atEdge_high hr], (input_undisturbed h).2, rstN_of_high hr⟩

/-! ## Runs of edges -/

@[simp] theorem edges_zero (s : State) : edges 0 s = .next s := rfl

theorem edges_succ_of_next {s t : State} (h : edge s = .next t) (n : Nat) : edges (n + 1) s = edges n t := by
  simp [edges, h]

theorem edges_add {s t : State} {m : Nat} (h : edges m s = .next t) (n : Nat) :
    edges (m + n) s = edges n t := by
  induction m generalizing s with
  | zero =>
    obtain rfl : s = t := by simpa using h
    simp
  | succ m ih =>
    cases he : edge s with
    | next u =>
      rw [edges_succ_of_next he] at h
      rw [Nat.add_right_comm, edges_succ_of_next he]
      exact ih h
    | fault f => simp [edges, he] at h
    | refused r => simp [edges, he] at h

theorem runToReady_ready {s : State} (h : s.atEdge.seq = .ready) (n : Nat) : runToReady n s = .next s := by
  cases n <;> simp [runToReady, h]

theorem runToReady_succ {s t : State} (hs : s.atEdge.seq ≠ .ready) (h : edge s = .next t) (n : Nat) :
    runToReady (n + 1) s = runToReady n t := by
  simp [runToReady, hs, h]

/-- An accepted command is its accepting edge and then edges to READY. -/
theorem issue_ready {s : State} (h : s.cmdReady = true) (w : Word) (acc : Ebc → Ebc) :
    issue w acc s = runToReady (acceptEdge w acc s).edgeBound (acceptEdge w acc s) := by
  simp [issue, h]

/-- A command that is not accepted at this edge waits for it to pass. -/
theorem issue_waits {s : State} (h : s.cmdReady = false) (w : Word) (acc : Ebc → Ebc) :
    issue w acc s = edge s := by
  simp [issue, h]

/-- A run to READY is a number of edges. -/
theorem runToReady_edges {n : Nat} {s t : State} (h : runToReady n s = .next t) :
    ∃ k, k ≤ n ∧ edges k s = .next t := by
  induction n generalizing s with
  | zero => exact ⟨0, le_refl 0, by simpa [runToReady] using h⟩
  | succ n ih =>
    by_cases hs : s.atEdge.seq = .ready
    · rw [runToReady_ready hs] at h
      exact ⟨0, by omega, by simpa using h⟩
    · cases he : edge s with
      | next u =>
        rw [runToReady_succ hs he] at h
        obtain ⟨k, hk, hk'⟩ := ih h
        exact ⟨k + 1, by omega, by rw [edges_succ_of_next he, hk']⟩
      | fault f => simp [runToReady, hs, he] at h
      | refused r => simp [runToReady, hs, he] at h

/-- What one edge keeps, a run to READY keeps. -/
theorem runToReady_keeps {P : State → Prop} (hP : ∀ s t, P s → edge s = .next t → P t)
    {n : Nat} {s t : State} (hs : P s) (h : runToReady n s = .next t) : P t := by
  induction n generalizing s with
  | zero =>
    obtain rfl : s = t := by simpa [runToReady] using h
    exact hs
  | succ n ih =>
    by_cases hr : s.atEdge.seq = .ready
    · obtain rfl : s = t := by simpa [runToReady, hr] using h
      exact hs
    · cases he : edge s with
      | next u =>
        rw [runToReady_succ hr he] at h
        exact ih (hP s u hs he) h
      | fault f => simp [runToReady, hr, he] at h
      | refused r => simp [runToReady, hr, he] at h

end Sys2Proof.Machine
end

