-- ==== Sys2Proof/Laws/Accept.lean ====
section
/-! SUPPORT. What acceptance can answer (Machine/Accept.lean), and that every command is its accepting edge followed by
edges (Machine/Dispatch.lean, Machine/Step.lean). -/

namespace Sys2Proof.Machine

section
variable {e : Ebc}

/-- All that the first two checks can answer (spec/30_encoding.md R90). -/
theorem Ebc.passChecks_cases (isLegal : Bool) (go : Ebc → Ebc) :
    (isLegal = false ∧ e.passChecks isLegal go = e.answerIllegal) ∨
      (isLegal = true ∧ e.fault = true ∧ e.passChecks isLegal go = { e.respond .rejected 0 with seq := .ready }) ∨
      (isLegal = true ∧ e.fault = false ∧ e.passChecks isLegal go = go e) := by
  unfold Ebc.passChecks
  cases isLegal <;> cases e.fault <;> simp

/-- All that the ownership check can answer (spec/60_exceptions.md R164). -/
theorem Ebc.toPinExec_cases :
    (e.phase = .idle ∧ e.toPinExec = { e with seq := .pExec }) ∨
      (e.phase ≠ .idle ∧ e.toPinExec = e.raiseFault .hwfOwnership noPin) := by
  unfold Ebc.toPinExec
  split
  · exact .inl ⟨by assumption, rfl⟩
  · exact .inr ⟨by assumption, rfl⟩

/-- Where a phase command starts (spec/41_bus_phase.md R121 to R124). -/
theorem Ebc.toPhaseChange_cases (fromIdle : Ebc → Ebc) :
    (e.phase = .idle ∧ e.toPhaseChange fromIdle = fromIdle e) ∨
      (e.phase ≠ .idle ∧ e.toPhaseChange fromIdle = { e with seq := .xOe }) := by
  unfold Ebc.toPhaseChange
  split
  · exact .inl ⟨by assumption, rfl⟩
  · exact .inr ⟨by assumption, rfl⟩

/-- A word that decodes is accepted as its command. -/
theorem accept_ok {w : Word} {i : Instr} (h : decode w = .ok i) : accept w e = acceptInstr i (e.latch w) := by
  simp [accept, h]

/-- A word that does not decode is answered ILLEGAL. -/
theorem accept_error {w : Word} {r : DecodeReject} (h : decode w = .error r) :
    accept w e = (e.latch w).answerIllegal := by
  simp [accept, h]

end

/-- Every meaning is the issue of its command's word. -/
theorem exec_eq_issue (i : Instr) (s : State) : exec i s = issue (encode i) (acceptInstr i) s := by
  cases i <;> rfl

/-- A command that is accepted: its accepting edge, then edges until READY. -/
theorem exec_ready {s : State} (h : s.cmdReady = true) (i : Instr) :
    exec i s = runToReady (acceptEdge (encode i) (acceptInstr i) s).edgeBound
      (acceptEdge (encode i) (acceptInstr i) s) := by
  rw [exec_eq_issue, issue_ready h]

/-- A command that ends on its accepting edge. -/
theorem exec_at_acceptance {s : State} (h : s.cmdReady = true) {i : Instr}
    (hs : (acceptInstr i ((s.atEdge.openEdge false).latch (encode i))).seq = .ready) :
    exec i s = .next (s.advance (acceptInstr i ((s.atEdge.openEdge false).latch (encode i)))) := by
  rw [exec_ready h]
  exact runToReady_ready (State.atEdge_ready hs) _

/-- All that a step is: a command, or one edge. -/
theorem step_cases (s : State) :
    (s.cmdReady = true ∧ s.input.cmdValid = true ∧ ∃ i, decode s.input.cmdWord = .ok i ∧ step s = exec i s) ∨
      ((s.cmdReady = true → s.input.cmdValid = true → legal s.input.cmdWord = false) ∧ step s = edge s) := by
  unfold step legal
  cases hr : s.cmdReady <;> cases hv : s.input.cmdValid <;> cases hd : decode s.input.cmdWord <;>
    simp [Except.toBool]

end Sys2Proof.Machine
end

