-- ==== Sys2Proof/Laws/Memory.lean ====
section
/-! SUPPORT. The EEPROM array: reads after writes, and that every operation keeps the canonical form (spec/20_memory.md
R50, R58(e), R63). -/

namespace Sys2Proof.Machine

/-- Addresses strictly rising. -/
abbrev Rising (m : Memory) : Prop := m.Pairwise fun x y => x.1 < y.1

theorem lookup_eq_none {m : Memory} {a : Nat} (h : ∀ c ∈ m, a < c.1) : lookup m a = none := by
  induction m with
  | nil => rfl
  | cons c m ih =>
    obtain ⟨k, v⟩ := c
    have hk : a < k := h (k, v) (by simp)
    simp only [lookup, if_neg (by omega : ¬ k = a)]
    exact ih fun c hc => h c (by simp [hc])

theorem lookup_listCell {m : Memory} (hm : Rising m) (a b : Nat) (v : Byte) :
    lookup (listCell m a v) b = if b = a then some v else lookup m b := by
  induction m with
  | nil => by_cases hb : b = a <;> simp [listCell, lookup, hb, Ne.symm]
  | cons c m ih =>
    obtain ⟨k, w⟩ := c
    have hm' := List.pairwise_cons.mp hm
    have ih := ih hm'.2
    simp only [listCell]
    split_ifs with h1 h2 h3 h3 <;> simp_all [lookup, eq_comm]

theorem lookup_unlistCell {m : Memory} (hm : Rising m) (a b : Nat) :
    lookup (unlistCell m a) b = if b = a then none else lookup m b := by
  induction m with
  | nil => simp [unlistCell, lookup]
  | cons c m ih =>
    obtain ⟨k, w⟩ := c
    have hm' := List.pairwise_cons.mp hm
    have ih := ih hm'.2
    by_cases h1 : k = a
    · subst h1
      by_cases h2 : b = k
      · subst h2
        simp [unlistCell, lookup_eq_none hm'.1]
      · simp [unlistCell, h2, lookup, Ne.symm h2]
    · by_cases h2 : b = a
      · subst h2
        simp [unlistCell, h1, lookup, ih]
      · simp [unlistCell, h1, lookup, ih, h2]

/-- A read after a write: the value at the address, everything else as before. -/
theorem memRead_memWrite {mem0 : Vector Byte 256} {m : Memory} (hm : Rising m) (a b v : Byte) :
    memRead mem0 (memWrite mem0 m a v) b = if b = a then v else memRead mem0 m b := by
  have key : b.toNat = a.toNat ↔ b = a := BitVec.toNat_inj
  unfold memWrite memRead
  split_ifs with h1 h2 h2
  · subst h2; simp [lookup_unlistCell hm, h1]
  · simp [lookup_unlistCell hm, key, h2]
  · subst h2; simp [lookup_listCell hm]
  · simp [lookup_listCell hm, key, h2]

theorem mem_listCell {m : Memory} {a : Nat} {v : Byte} {c : Host.Cell} (h : c ∈ listCell m a v) :
    c = (a, v) ∨ c ∈ m := by
  induction m with
  | nil => simpa [listCell] using h
  | cons d m ih =>
    obtain ⟨k, w⟩ := d
    simp only [listCell] at h
    split_ifs at h <;> simp only [List.mem_cons] at h ⊢
    · exact h
    · exact h.imp id .inr
    · rcases h with h | h
      · exact .inr (.inl h)
      · exact (ih h).imp id .inr

theorem mem_unlistCell {m : Memory} {a : Nat} {c : Host.Cell} (h : c ∈ unlistCell m a) : c ∈ m := by
  induction m with
  | nil => exact h
  | cons d m ih =>
    obtain ⟨k, w⟩ := d
    simp only [unlistCell] at h
    split_ifs at h
    · exact List.mem_cons_of_mem _ h
    · rcases List.mem_cons.mp h with h | h
      · exact List.mem_cons.mpr (.inl h)
      · exact List.mem_cons_of_mem _ (ih h)

theorem rising_listCell {m : Memory} (hm : Rising m) (a : Nat) (v : Byte) : Rising (listCell m a v) := by
  induction m with
  | nil => simp [Rising, listCell]
  | cons d m ih =>
    obtain ⟨k, w⟩ := d
    have hm' := List.pairwise_cons.mp hm
    simp only [listCell]
    split_ifs with h1 h2
    · refine List.pairwise_cons.mpr ⟨fun c hc => ?_, hm⟩
      rcases List.mem_cons.mp hc with rfl | hc
      · exact h1
      · exact lt_trans h1 (hm'.1 c hc)
    · subst h2
      exact List.pairwise_cons.mpr ⟨fun c hc => hm'.1 c hc, hm'.2⟩
    · refine List.pairwise_cons.mpr ⟨fun c hc => ?_, ih hm'.2⟩
      rcases mem_listCell hc with rfl | hc
      · show k < a
        omega
      · exact hm'.1 c hc

theorem rising_unlistCell {m : Memory} (hm : Rising m) (a : Nat) : Rising (unlistCell m a) := by
  induction m with
  | nil => exact hm
  | cons d m ih =>
    obtain ⟨k, w⟩ := d
    have hm' := List.pairwise_cons.mp hm
    simp only [unlistCell]
    split_ifs with h
    · exact hm'.2
    · exact List.pairwise_cons.mpr ⟨fun c hc => hm'.1 c (mem_unlistCell hc), ih hm'.2⟩

/-- The empty list, which is what the start of a run has, is canonical. -/
theorem wf_nil (mem0 : Vector Byte 256) : Memory.wf mem0 [] :=
  ⟨List.Pairwise.nil, by simp⟩

/-- A write keeps the canonical form. -/
theorem wf_memWrite {mem0 : Vector Byte 256} {m : Memory} (hm : Memory.wf mem0 m) (a v : Byte) :
    Memory.wf mem0 (memWrite mem0 m a v) := by
  unfold memWrite
  split_ifs with h
  · exact ⟨rising_unlistCell hm.1 _, fun c hc => hm.2 c (mem_unlistCell hc)⟩
  · refine ⟨rising_listCell hm.1 _ _, fun c hc => ?_⟩
    rcases mem_listCell hc with rfl | hc
    · exact ⟨a.isLt, by simpa using h⟩
    · exact hm.2 c hc

/-- The write of every cell leaves the canonical form. -/
theorem wf_memFill (mem0 : Vector Byte 256) (f : Byte → Byte) : Memory.wf mem0 (memFill mem0 f) := by
  constructor
  · refine List.Pairwise.filterMap _ ?_ List.pairwise_lt_range
    intro a b hab c hc d hd
    split_ifs at hc hd; simp_all
    simp [← hc, ← hd, hab]
  · intro c hc
    obtain ⟨a, ha, hc⟩ := List.mem_filterMap.mp hc
    split_ifs at hc with h
    simp only [Option.some.injEq] at hc
    subst hc
    exact ⟨List.mem_range.mp ha, h⟩

end Sys2Proof.Machine
end

