-- ==== Sys2Proof/Laws/Device.lean ====
section
/-! SUPPORT. What the device can do on an edge (spec/20_memory.md R56 to R62): the fields of each part of its step, what
a commit does to the array, and which pads exclude a pulse or a drive. -/

namespace Sys2Proof.Machine

/-! ## A commit -/

section
variable (d : Device) (mem0 : Vector Byte 256) (n : Nat)

@[simp] theorem Device.commit_mem : (d.commit mem0 n).mem = d.commitMem mem0 n := rfl
@[simp] theorem Device.commit_wcLeft : (d.commit mem0 n).wcLeft = d.wcLeft := rfl
@[simp] theorem Device.commit_inPulse : (d.commit mem0 n).inPulse = d.inPulse := rfl
@[simp] theorem Device.commit_pLen : (d.commit mem0 n).pLen = d.pLen := rfl
@[simp] theorem Device.commit_pAddr : (d.commit mem0 n).pAddr = d.pAddr := rfl
@[simp] theorem Device.commit_pData : (d.commit mem0 n).pData = d.pData := rfl
@[simp] theorem Device.commit_pBad : (d.commit mem0 n).pBad = d.pBad := rfl
@[simp] theorem Device.commit_wcAddr : (d.commit mem0 n).wcAddr = d.wcAddr := rfl
@[simp] theorem Device.commit_wcData : (d.commit mem0 n).wcData = d.wcData := rfl
@[simp] theorem Device.commit_wcOk : (d.commit mem0 n).wcOk = d.wcOk := rfl

variable {d mem0}

/-- A commit keeps the canonical form. -/
theorem Device.wf_commitMem (h : Memory.wf mem0 d.mem) : Memory.wf mem0 (d.commitMem mem0 n) := by
  unfold Device.commitMem
  split
  · exact wf_memWrite h _ _
  · exact wf_memFill _ _

/-- A good commit writes its byte to its cell and no other (R58(e)). -/
theorem Device.read_commitMem_good (h : Memory.wf mem0 d.mem) {a v : Byte} (ha : d.wcAddr = some a)
    (hd : d.wcData = some v) (hok : d.wcOk = true) (b : Byte) :
    memRead mem0 (d.commitMem mem0 n) b = if b = a then v else memRead mem0 d.mem b := by
  simp only [Device.commitMem, ha, hd, hok]
  exact memRead_memWrite h.1 a b v

/-- Any commit with a latched address leaves the other cells alone (R58(e)). -/
theorem Device.read_commitMem_other (h : Memory.wf mem0 d.mem) {a b : Byte} (ha : d.wcAddr = some a) (hb : b ≠ a) :
    memRead mem0 (d.commitMem mem0 n) b = memRead mem0 d.mem b := by
  simp only [Device.commitMem, ha]
  rw [memRead_memWrite h.1, if_neg hb]

end

/-! ## The write cycle (R58(a)) -/

section
variable (s : State)

@[simp] theorem State.devWriteCycle_wcLeft : s.devWriteCycle.wcLeft = s.dev.wcLeft - 1 := by
  unfold State.devWriteCycle
  split_ifs with h1 h2
  · omega
  · rfl
  · rfl

@[simp] theorem State.devWriteCycle_inPulse : s.devWriteCycle.inPulse = s.dev.inPulse := by
  unfold State.devWriteCycle
  split_ifs <;> rfl

@[simp] theorem State.devWriteCycle_pLen : s.devWriteCycle.pLen = s.dev.pLen := by
  unfold State.devWriteCycle
  split_ifs <;> rfl

@[simp] theorem State.devWriteCycle_pAddr : s.devWriteCycle.pAddr = s.dev.pAddr := by
  unfold State.devWriteCycle
  split_ifs <;> rfl

@[simp] theorem State.devWriteCycle_pData : s.devWriteCycle.pData = s.dev.pData := by
  unfold State.devWriteCycle
  split_ifs <;> rfl

@[simp] theorem State.devWriteCycle_pBad : s.devWriteCycle.pBad = s.dev.pBad := by
  unfold State.devWriteCycle
  split_ifs <;> rfl

@[simp] theorem State.devWriteCycle_wcAddr : s.devWriteCycle.wcAddr = s.dev.wcAddr := by
  unfold State.devWriteCycle
  split_ifs <;> rfl

@[simp] theorem State.devWriteCycle_wcData : s.devWriteCycle.wcData = s.dev.wcData := by
  unfold State.devWriteCycle
  split_ifs <;> rfl

@[simp] theorem State.devWriteCycle_wcOk : s.devWriteCycle.wcOk = s.dev.wcOk := by
  unfold State.devWriteCycle
  split_ifs <;> rfl

/-- The array changes only on the last edge of a write cycle. -/
theorem State.devWriteCycle_mem :
    s.devWriteCycle.mem = if s.dev.wcLeft = 1 then s.dev.commitMem s.par.mem0 s.tick else s.dev.mem := by
  unfold State.devWriteCycle
  split_ifs with h1 h2 <;> first | rfl | omega

end

/-! ## The pulse (R58(b) to (d)) -/

section
variable {s : State}

theorem State.devPulse_none {d : Device} (h : s.dev.inPulse = false) (hp : s.pulseOn = false) : s.devPulse d = d := by
  simp [State.devPulse, h, hp]

theorem State.devPulse_start {d : Device} (h : s.dev.inPulse = false) (hp : s.pulseOn = true) :
    s.devPulse d = s.devPulseStart d := by
  simp [State.devPulse, h, hp]

theorem State.devPulse_body {d : Device} (h : s.dev.inPulse = true) (hp : s.pulseOn = true) :
    s.devPulse d = s.devPulseBody d := by
  simp [State.devPulse, h, hp]

theorem State.devPulse_end {d : Device} (h : s.dev.inPulse = true) (hp : s.pulseOn = false) :
    s.devPulse d = s.devPulseEnd d := by
  simp [State.devPulse, h, hp]

/-- At rest and with no pulse, the device's edge leaves the array alone and the device at rest. -/
theorem State.devStep_rest (hr : s.atRest) (hp : s.pulseOn = false) :
    s.devStep.inPulse = false ∧ s.devStep.wcLeft = 0 ∧ s.devStep.mem = s.dev.mem := by
  simp [State.devPulse_none hr.1 hp, State.devWriteCycle_mem, hr.1, hr.2]

end

/-! ## What the pads exclude -/

section
variable {s : State} {k : Pin}

theorem State.seenLow_of_high (h : pinAt s.ebc.pincfg k = .output .high) : s.seenLow k = false := by
  simp [State.seenLow, State.controlSeen, passiveNet, h, PinCfg.padOe, PinCfg.padO, PinCfg.claimed, PinCfg.dir,
    PinCfg.val, Level.bit]

theorem State.seenLow_of_low (h : pinAt s.ebc.pincfg k = .output .low) : s.seenLow k = true := by
  simp [State.seenLow, State.controlSeen, passiveNet, h, PinCfg.padOe, PinCfg.padO, PinCfg.claimed, PinCfg.dir,
    PinCfg.val, Level.bit]

/-- A line that is not driven Low is seen High or, under Havoc, as it floats. -/
theorem State.seenLow_of_passiveHigh (h : passiveNet (s.pin k) = .high) : s.seenLow k = false := by
  simp only [State.pin_def] at h
  simp [State.seenLow, State.controlSeen, h]

/-- Pads that exclude a write pulse exclude it. -/
theorem State.pulseOn_of_writeOff (h : s.writeOff) : s.pulseOn = false := by
  unfold State.pulseOn
  rcases h with h | h | ⟨hi, h | h⟩
  · simp [State.seenLow_of_passiveHigh h]
  · simp [State.seenLow_of_passiveHigh h]
  · simp only [State.pin_def] at h
    simp [State.seenLow, State.controlSeen, h, hi]
  · simp only [State.pin_def] at h
    simp [State.seenLow, State.controlSeen, h, hi]

end

end Sys2Proof.Machine
end

