-- ==== Sys2Proof/Laws/Micro.lean ====
section
/-! SUPPORT. What each micro-state can do on its edge (Machine/Micro.lean): its success as one register update, or one
fault entry and nothing else. Proofs cite these and unfold no micro-state. -/

namespace Sys2Proof.Machine

section
variable {x : EdgeCtx} {e : Ebc}

/-! ## A primitive and what follows it -/

theorem afterCfg_cases (m : PinMask) (md : Mode) (b : Bool) (k : Pins → Ebc) :
    e.afterPins (cfgPins m md b x.portErr e.pincfg) k = k (configurePins m md b e.pincfg) ∨
      ∃ q, x.portErr = true ∧ lowestPin m = some q ∧
        e.afterPins (cfgPins m md b x.portErr e.pincfg) k = e.raiseFault .hwfPort (pinField q) := by
  rcases cfgPins_cases m md b x.portErr e.pincfg with h | ⟨q, hp, hl, h⟩
  · exact .inl (by rw [h, afterPins_ok])
  · exact .inr ⟨q, hp, hl, by rw [h, afterPins_error]⟩

theorem afterSet_cases (m v : PinMask) (k : Pins → Ebc) :
    ((∀ j, inMask m j = true → (pinAt e.pincfg j).isOutput = true) ∧
        e.afterPins (setPins m v x.portErr e.pincfg) k = k (drivePins m v e.pincfg)) ∨
      (∃ q, inMask m q = true ∧ (pinAt e.pincfg q).isOutput = false ∧
        e.afterPins (setPins m v x.portErr e.pincfg) k = e.raiseFault .hwfDirection (pinField q)) ∨
      ∃ q, x.portErr = true ∧ lowestPin m = some q ∧
        e.afterPins (setPins m v x.portErr e.pincfg) k = e.raiseFault .hwfPort (pinField q) := by
  rcases setPins_cases m v x.portErr e.pincfg with ⟨ha, h⟩ | ⟨q, hm, ho, h⟩ | ⟨_, q, hp, hl, h⟩
  · exact .inl ⟨ha, by rw [h, afterPins_ok]⟩
  · exact .inr (.inl ⟨q, hm, ho, by rw [h, afterPins_error]⟩)
  · exact .inr (.inr ⟨q, hp, hl, by rw [h, afterPins_error]⟩)

theorem afterGet_cases (m : PinMask) (k : PinMask → Ebc) :
    ((∀ j, inMask m j = true → (pinAt e.pincfg j).isInput = true) ∧
        e.afterPins (getPins m x.portErr x.sample e.pincfg) k = k (samplePins m x.sample)) ∨
      (∃ q, inMask m q = true ∧ (pinAt e.pincfg q).isInput = false ∧
        e.afterPins (getPins m x.portErr x.sample e.pincfg) k = e.raiseFault .hwfDirection (pinField q)) ∨
      ∃ q, x.portErr = true ∧ lowestPin m = some q ∧
        e.afterPins (getPins m x.portErr x.sample e.pincfg) k = e.raiseFault .hwfPort (pinField q) := by
  rcases getPins_cases m x.portErr x.sample e.pincfg with ⟨ha, h⟩ | ⟨q, hm, ho, h⟩ | ⟨_, q, hp, hl, h⟩
  · exact .inl ⟨ha, by rw [h, afterPins_ok]⟩
  · exact .inr (.inl ⟨q, hm, ho, by rw [h, afterPins_error]⟩)
  · exact .inr (.inr ⟨q, hp, hl, by rw [h, afterPins_error]⟩)

/-- The set of one Output pin raises no direction fault. -/
theorem afterSet_pin {j : Pin} (v : PinMask) (k : Pins → Ebc) (ho : (pinAt e.pincfg j).isOutput = true) :
    e.afterPins (setPins (maskPin j) v x.portErr e.pincfg) k = k (drivePins (maskPin j) v e.pincfg) ∨
      ∃ q, x.portErr = true ∧ lowestPin (maskPin j) = some q ∧
        e.afterPins (setPins (maskPin j) v x.portErr e.pincfg) k = e.raiseFault .hwfPort (pinField q) := by
  rcases afterSet_cases (maskPin j) v k with ⟨_, h⟩ | ⟨q, hm, hq, _⟩ | h
  · exact .inl h
  · simp only [inMask_maskPin, decide_eq_true_eq] at hm
    subst hm
    rw [ho] at hq
    cases hq
  · exact .inr h

/-! ## Delay states -/

theorem delayState_one {p : Params} {act : Ebc → Ebc} (h : e.cnt = 1) : delayState p act e = act e := by
  simp [delayState, h]

theorem delayState_more {p : Params} {act : Ebc → Ebc} (h : 1 < e.cnt) :
    delayState p act e = { e with cnt := e.cnt - 1 } := by
  simp only [delayState, cntPred]
  rw [if_neg (by omega), if_neg (by omega)]

/-! ## X_CE -/

theorem xCe_cases (ho : (pinAt e.pincfg pinCE).isOutput = true) :
    xCe x e = xCeNext { e with pincfg := drivePins (maskPin pinCE) (maskPin pinCE) e.pincfg, phase := .idle } ∨
      ∃ q, x.portErr = true ∧ lowestPin (maskPin pinCE) = some q ∧
        xCe x e = some (e.raiseFault .hwfPort (pinField q)) := by
  unfold xCe
  rcases setPins_cases (maskPin pinCE) (maskPin pinCE) x.portErr e.pincfg with ⟨_, h⟩ | ⟨q, hm, hq, _⟩ | ⟨_, q, hp, hl, h⟩
  · exact .inl (by rw [h])
  · simp only [inMask_maskPin, decide_eq_true_eq] at hm
    subst hm
    rw [ho] at hq
    cases hq
  · exact .inr ⟨q, hp, hl, by rw [h]⟩

end

end Sys2Proof.Machine
end

