-- ==== Sys2Proof/Laws/PerInstr.lean ====
section
/-! SUPPORT. A statement made for each command: its word carries its own opcode, whatever its operands are (spec/30_encoding.md
R81, R83). -/

namespace Sys2Proof.Laws

/-- The word of a command has the command's opcode in bits 31..28. -/
def EncodeOpcode.Statement (i : Instr) : Prop := opcodeOf (encode i) = i.opcode

/-- A one-bit field below bit 28 leaves the opcode bits 0. -/
theorem bitAt_high (k j : Nat) (b : Bool) (hk : k < 28) (hj : 28 ≤ j) : (bitAt k b).getLsbD j = false := by
  have h : 1 ≤ j - k := by omega
  cases b <;> simp [bitAt, BitVec.getLsbD_shiftLeft]
  omega

theorem EncodeOpcode.pcfg (m : PinMask) (md : Mode) (b : Bool) : EncodeOpcode.Statement (.pcfg m md b) := by
  unfold EncodeOpcode.Statement opcodeOf
  ext j hj
  have h1 := bitAt_high 27 (28 + j) (modeBit md) (by omega) (by omega)
  have h2 := bitAt_high 26 (28 + j) b (by omega) (by omega)
  have h3 : m.getLsbD (28 + j) = false := BitVec.getLsbD_of_ge _ _ (by omega)
  simp only [encode, Instr.opcode, BitVec.getElem_extractLsb', BitVec.getLsbD_or, h1, h2, BitVec.getLsbD_setWidth, h3]
  interval_cases j <;> simp

theorem EncodeOpcode.pset (n : BitVec 5) (l : Level) : EncodeOpcode.Statement (.pset n l) := by
  unfold EncodeOpcode.Statement opcodeOf
  ext j hj
  have h1 := bitAt_high 27 (28 + j) l.bit (by omega) (by omega)
  have h3 : n.getLsbD (28 + j) = false := BitVec.getLsbD_of_ge _ _ (by omega)
  simp only [encode, Instr.opcode, BitVec.getElem_extractLsb', BitVec.getLsbD_or, h1, BitVec.getLsbD_setWidth, h3]
  interval_cases j <;> simp

theorem EncodeOpcode.pget (n : BitVec 5) : EncodeOpcode.Statement (.pget n) := by
  unfold EncodeOpcode.Statement opcodeOf
  ext j hj
  have h3 : n.getLsbD (28 + j) = false := BitVec.getLsbD_of_ge _ _ (by omega)
  simp only [encode, Instr.opcode, BitVec.getElem_extractLsb', BitVec.getLsbD_or, BitVec.getLsbD_setWidth, h3]
  interval_cases j <;> simp

theorem EncodeOpcode.prel : EncodeOpcode.Statement .prel := by unfold EncodeOpcode.Statement; decide

theorem EncodeOpcode.entw : EncodeOpcode.Statement .entw := by unfold EncodeOpcode.Statement; decide

theorem EncodeOpcode.entr : EncodeOpcode.Statement .entr := by unfold EncodeOpcode.Statement; decide

theorem EncodeOpcode.exit : EncodeOpcode.Statement .exit := by unfold EncodeOpcode.Statement; decide

theorem EncodeOpcode.wrb (a d : Byte) : EncodeOpcode.Statement (.wrb a d) := by
  unfold EncodeOpcode.Statement opcodeOf
  ext j hj
  have h1 : a.getLsbD (28 + j - 8) = false := BitVec.getLsbD_of_ge _ _ (by omega)
  have h2 : d.getLsbD (28 + j) = false := BitVec.getLsbD_of_ge _ _ (by omega)
  simp only [encode, Instr.opcode, BitVec.getElem_extractLsb', BitVec.getLsbD_or, BitVec.getLsbD_shiftLeft,
    BitVec.getLsbD_setWidth, h1, h2]
  interval_cases j <;> simp

theorem EncodeOpcode.rdb (a : Byte) : EncodeOpcode.Statement (.rdb a) := by
  unfold EncodeOpcode.Statement opcodeOf
  ext j hj
  have h1 : a.getLsbD (28 + j - 8) = false := BitVec.getLsbD_of_ge _ _ (by omega)
  simp only [encode, Instr.opcode, BitVec.getElem_extractLsb', BitVec.getLsbD_or, BitVec.getLsbD_shiftLeft,
    BitVec.getLsbD_setWidth, h1]
  interval_cases j <;> simp

end Sys2Proof.Laws
end

