-- ==== Sys2Proof/Tests/Slice0.lean ====
section
/-! SUPPORT. Tests on fixed values: the smoke of WellFormed, words written out from the layouts of spec/30_encoding.md R83,
vectors of spec/95_test_vectors.md (each named V-…), and for every statement with hypotheses a state that meets them. -/

namespace Sys2Proof.Tests

open Sys2Proof Sys2Proof.Machine

set_option maxRecDepth 20000

/-! ## WellFormed -/

theorem test_wf_refuses_pset_19 : (Instr.pset 19#5 .high).wellFormed = false := by decide
theorem test_wf_refuses_pset_31 : (Instr.pset 31#5 .low).wellFormed = false := by decide
theorem test_wf_refuses_pget_19 : (Instr.pget 19#5).wellFormed = false := by decide
theorem test_wf_refuses_pget_31 : (Instr.pget 31#5).wellFormed = false := by decide
theorem test_wf_admits_18 : (Instr.pset 18#5 .high).wellFormed = true ∧ (Instr.pget 18#5).wellFormed = true := by decide

/-! ## Words written out from R83, field by field from bit 31 -/

theorem test_word_pcfg : decode (0b0001#4 ++ 1#1 ++ 0#1 ++ 0#7 ++ 0b0000000000100000001#19) =
    .ok (.pcfg 0x00101#19 .output false) := by decide
theorem test_word_pcfg_in : decode (0b0001#4 ++ 0#1 ++ 1#1 ++ 0#7 ++ 0b1110000000000000000#19) =
    .ok (.pcfg 0x70000#19 .input true) := by decide
theorem test_word_pset : decode (0b0010#4 ++ 1#1 ++ 0#22 ++ 0b10010#5) = .ok (.pset 18#5 .high) := by decide
theorem test_word_pget : decode (0b0011#4 ++ 0#23 ++ 0b01000#5) = .ok (.pget 8#5) := by decide
theorem test_word_prel : decode (0b0100#4 ++ 0#28) = .ok .prel := by decide
theorem test_word_entw : decode (0b1000#4 ++ 0#28) = .ok .entw := by decide
theorem test_word_entr : decode (0b1001#4 ++ 0#28) = .ok .entr := by decide
theorem test_word_exit : decode (0b1010#4 ++ 0#28) = .ok .exit := by decide
theorem test_word_wrb : decode (0b1011#4 ++ 0#12 ++ 0b00000101#8 ++ 0b10100101#8) =
    .ok (.wrb 0x05#8 0xA5#8) := by decide
theorem test_word_rdb : decode (0b1100#4 ++ 0#12 ++ 0b00000101#8 ++ 0#8) = .ok (.rdb 0x05#8) := by decide
theorem test_table_word : decodeTableWord 32 0xB00005A5 = some (.wrb 0x05#8 0xA5#8) := by decide
theorem test_table_word_refused : decodeTableWord 32 0x28000013 = none := by decide

/-- A word for each clause of R85, R86 and R87, at the ends of each field. -/
theorem test_illegal_words :
    [0x20000013#32, 0x2800001F#32, 0x30000013#32, 0x3000001F#32, 0x10080000#32, 0x12000000#32, 0x20000020#32,
      0x24000000#32, 0x30000020#32, 0x38000000#32, 0xC0000001#32, 0xC0000080#32, 0xC0010000#32, 0xC8000000#32,
      0xB0010000#32, 0xB8000000#32, 0x40000001#32, 0x48000000#32, 0x80000001#32, 0x98000000#32, 0xA0000001#32,
      0x00000000#32, 0x50000000#32, 0x7FFFFFFF#32, 0xD0000000#32, 0xFFFFFFFF#32].all (legal · == false) = true := by
  decide

/-! ## The assembler (R93, R94) -/

theorem test_asm_pcfg : assembleLine "pcfg CTRL,out,hi" = .ok (some 0x1C070000#32) := by decide
theorem test_asm_wrb : assembleLine "wrb 0x05, 0xA5 ; 0xB00005A5" = .ok (some 0xB00005A5#32) := by decide
theorem test_asm_refuses_pin_19 : assembleLine "pset 19, hi" = .error .outOfRange := by decide
theorem test_asm_symbols : assembleLine "pcfg WE | OE | ADDR, in, pu" = .ok (some 0x140300FF#32) := by decide

/-! ## States -/

/-- The parameters of the vectors' section 0: every delay and every device time 1. -/
def tp : Params where
  fClk := 100
  nSettle := 1
  nPulse := 1
  nRecover := 1
  nAccess := 1
  wDlySlack := 0
  floatPolicy := .inert
  dSetup := 1
  dWp := 1
  dWc := 1
  dAcc := 1
  mem0 := Vector.replicate 256 0x11#8

def start : State := State.resetWith tp

/-- WRITE_ACTIVE after entry, WA0. -/
def writePins : Pins := Vector.ofFn fun k : Pin => .output (if k = pinWE ∨ k = pinOE then .high else .low)

/-- READ_ACTIVE after entry. -/
def readPins : Pins := Vector.ofFn fun k : Pin =>
  if inMask maskData k then .input .up else .output (if k = pinWE then .high else .low)

/-- IDLE with the control lines Output High and the data lines Input PullUp, as after V-G2. -/
def directPins : Pins := Vector.ofFn fun k : Pin =>
  if inMask maskCtrl k then .output .high else if inMask maskData k then .input .up else .unclaimed

def direct : State := { start with ebc := { Ebc.reset with pincfg := directPins } }
def writing : State := { start with ebc := { Ebc.reset with pincfg := writePins, phase := .writeActive } }
def reading : State := { start with ebc := { Ebc.reset with pincfg := readPins, phase := .readActive } }

/-- READ_ACTIVE with 0xA5 in cell 0x05. -/
def readingA5 : State := { reading with dev := { Device.start with mem := [(5, 0xA5#8)] } }

/-- After V-F1: a WRB in READ_ACTIVE has faulted. -/
def faulted : State :=
  { reading with
    ebc := { reading.ebc with
      fault := true, faultCause := .hwfPhase, faultPin := noPin, faultOp := 0xB#4, cmd := 0xB0001055#32 } }

/-- A WRB on its way, about to pull WE̅ Low. -/
def settling : State :=
  { writing with
    ebc := { writing.ebc with
      seq := .wSettle, cnt := 1, cmd := 0xB00005A5#32, addrR := 0x05#8, wdataR := 0xA5#8 } }

/-- A PSET of an Unclaimed pin on its way. -/
def settingUnclaimed : State := { direct with ebc := { direct.ebc with seq := .pExec, cmd := 0x28000000#32 } }

def withInputs (s : State) (l : List EdgeIn) : State := { s with inputs := l }
def aborting : EdgeIn := { EdgeIn.idle with abort := true }
def portError : EdgeIn := { EdgeIn.idle with portErr := true }
def resetting : EdgeIn := { EdgeIn.idle with rst := .low }
def resetPulse : EdgeIn := { EdgeIn.idle with rst := .pulse }
def presenting (w : Word) : EdgeIn := { EdgeIn.idle with cmdValid := true, cmdWord := w }

/-- The status word, the pin word, the response. -/
def seen (r : Result) : Option (BitVec 32 × BitVec 57 × Status × Byte) :=
  match r with
  | .next s => some (statusWord s.ebc, pincfgWord s.ebc.pincfg, s.ebc.rspStatus, s.ebc.rspData)
  | _ => none

/-- One cell after a step. -/
def cellAfter (r : Result) (a : Byte) : Option Byte :=
  match r with
  | .next s => some (s.cell a)
  | _ => none

/-- An answer is a next state with a property. -/
def answers (r : Result) (p : State → Bool) : Bool :=
  match r with
  | .next s => p s
  | _ => false

/-! ## Vectors of spec/95_test_vectors.md, one step each -/

/-- V-G1. -/
theorem test_pcfg_out : seen (step (start.withFetchWord 32 0x1C070000)) =
    some (0, 0x01FF000000000000, .ok, 0) := by decide
/-- V-G2. -/
theorem test_pcfg_in : seen (step (direct.withFetchWord 32 0x1400FF00)) =
    some (0, 0x01FFB6DB6D000000, .ok, 0) := by decide
/-- V-G12, with the data lines pulled up. -/
theorem test_pset : seen (step (direct.withFetchWord 32 0x20000012)) =
    some (0, 0x00FFB6DB6D000000, .ok, 0) := by decide
/-- V-G6. -/
theorem test_pset_input_faults : seen (step (direct.withFetchWord 32 0x28000008)) =
    some (0x8888, 0x01FFB6DB6D000000, .hwfDirection, 0) := by decide
/-- V-G3. -/
theorem test_pget_pulled_up : seen (step (direct.withFetchWord 32 0x30000008)) =
    some (0, 0x01FFB6DB6D000000, .ok, 1) := by decide
/-- V-G7. -/
theorem test_pget_output_faults : seen (step (direct.withFetchWord 32 0x30000010)) =
    some (0xD088, 0x01FFB6DB6D000000, .hwfDirection, 0) := by decide
/-- V-F2. -/
theorem test_prel_after_fault : seen (step (faulted.withFetchWord 32 0x40000000)) = some (0, 0, .ok, 0) := by decide
/-- V-P1. -/
theorem test_entw : seen (step (start.withFetchWord 32 0x80000000)) =
    some (1, 0x00FF6DB6DB6DB6DB, .ok, 0) := by decide
/-- V-P9. -/
theorem test_entw_port_error :
    seen (step ((withInputs start [EdgeIn.idle, portError]).withFetchWord 32 0x80000000)) =
      some (0x000210B8, 0, .hwfPort, 0) := by decide
/-- V-P2. -/
theorem test_entr : seen (step (start.withFetchWord 32 0x90000000)) =
    some (2, 0x00DFB6DB6D6DB6DB, .ok, 0) := by decide
/-- V-P5. -/
theorem test_entr_from_write : seen (step (writing.withFetchWord 32 0x90000000)) =
    some (2, 0x00DFB6DB6D6DB6DB, .ok, 0) := by decide
/-- V-P3. -/
theorem test_exit_idle : seen (step (start.withFetchWord 32 0xA0000000)) = some (0, 0, .ok, 0) := by decide
/-- 41_bus_phase.md R123's example: from WRITE_ACTIVE, OE̅ and CE̅ High and nothing else changed. -/
theorem test_exit_write : seen (step (writing.withFetchWord 32 0xA0000000)) =
    some (0, 0x01FF6DB6DB6DB6DB, .ok, 0) := by decide
/-- V-T1, the pins. -/
theorem test_wrb : seen (step (writing.withFetchWord 32 0xB00005A5)) =
    some (1, 0x00FFEFB7DF6DB7DF, .ok, 0) := by decide
/-- V-T1, the cell. -/
theorem test_wrb_cell : cellAfter (step (writing.withFetchWord 32 0xB00005A5)) 0x05#8 = some 0xA5#8 := by decide
/-- V-T2. -/
theorem test_rdb : seen (step (readingA5.withFetchWord 32 0xC0000500)) =
    some (2, 0x00DFB6DB6D6DB7DF, .ok, 0xA5) := by decide
/-- V-T8. -/
theorem test_rdb_port_error :
    seen (step ((withInputs readingA5 [EdgeIn.idle, EdgeIn.idle, EdgeIn.idle, portError]).withFetchWord 32
      0xC0000500)) = some (0x000308BA, 0x00DFB6DB6D6DB7DF, .hwfPort, 0) := by decide
/-- V-F1. -/
theorem test_wrb_in_read_phase : seen (step (reading.withFetchWord 32 0xB0001055)) =
    some (0x0002DF9A, 0x00DFB6DB6D6DB6DB, .hwfPhase, 0) := by decide
/-- V-G10. -/
theorem test_pcfg_in_write_phase : seen (step (writing.withFetchWord 32 0x1C070000)) =
    some (0x00005FA9, 0x00FF6DB6DB6DB6DB, .hwfOwnership, 0) := by decide
/-- R166: an ILLEGAL word is answered ILLEGAL while `FAULT = 1` too, and the record stays. -/
theorem test_illegal_while_faulted : seen (step (faulted.withFetchWord 32 0)) =
    some (0x0002DF9A, 0x00DFB6DB6D6DB6DB, .illegal, 0) := by decide
/-- V-A1, its first edge and what it leads to. -/
theorem test_abort : seen (edges 3 (withInputs start [aborting, aborting, aborting])) =
    some (0x2000, 0, .aborted, 0) := by decide
/-- V-A3: an abort at e3 comes before the pulse. -/
theorem test_abort_before_pulse :
    cellAfter (step ((withInputs writing [EdgeIn.idle, EdgeIn.idle, EdgeIn.idle, aborting]).withFetchWord 32
      0xB00005A5)) 0x05#8 = some 0x11#8 := by decide
/-- R190: reset in the middle of a WRB. -/
theorem test_reset_in_flight : seen (step (withInputs settling [resetting])) = some (0, 0, .ok, 0) := by decide
/-- R190, R191: after a reset pulse inside one cycle of a WRB the command presented is accepted and runs from the reset
values; without one the WRB has no response. -/
theorem test_reset_pulse :
    seen (step (withInputs settling [{ presenting 0x1C070000#32 with rst := .pulse }])) =
      some (0, 0x01FF000000000000, .ok, 0) ∧
    seen (step (withInputs settling [resetPulse])) = some (0, 0, .ok, 0) := by decide
/-- R190: a WRB ends where `rst_n` falls, here in its third cycle, and its pads are released and its response port reads
0 from then on. -/
theorem test_reset_ends_command :
    answers (exec (.wrb 0x05#8 0xA5#8) (withInputs writing [EdgeIn.idle, EdgeIn.idle, resetPulse]))
      (fun t => t.tick == writing.tick + 2 && (t.outputs .opening).padOe == maskAll &&
        (t.outputs .inReset).padOe == 0 && (t.outputs .closing).padSel == 0 &&
        (t.outputs .closing).rspValid == false) = true := by decide
/-- The machine runs its first command right after reset, whatever the parameters are. -/
theorem test_first_command : seen (step (State.reset.withFetchWord 32 0x1C070000)) =
    some (0, 0x01FF000000000000, .ok, 0) := by decide

/-! ## Witnesses of hypotheses

Each theorem shows a state, and operands, that meet the hypotheses of the statement that it names, or of one clause. -/

/-- The invariant at the states below. -/
theorem inv_start : start.Inv where
  ebc := {
    cntClear := fun _ => rfl
    cntCounts := fun h => by revert h; decide
    faultClear := fun _ => ⟨rfl, rfl, rfl⟩
    faultHeld := fun h => by revert h; decide
    abortingTears := fun h => by revert h; decide
    responded := fun h => by revert h; decide
    command := trivial
    phase := rfl
    pins := fun _ => ⟨fun h => by revert h; decide, fun h => by revert h; decide⟩ }
  dev := {
    memory := wf_nil _
    apart := fun h => by revert h; decide
    pulseLength := fun h => by revert h; decide
    writeCycle := by decide }

theorem inv_writing : writing.Inv where
  ebc := {
    cntClear := fun _ => rfl
    cntCounts := fun h => by revert h; decide
    faultClear := fun _ => ⟨rfl, rfl, rfl⟩
    faultHeld := fun h => by revert h; decide
    abortingTears := fun h => by revert h; decide
    responded := fun h => by revert h; decide
    command := trivial
    phase := rfl
    pins := fun _ => ⟨fun _ => by decide, fun h => by revert h; decide⟩ }
  dev := inv_start.dev

theorem inv_faulted : faulted.Inv where
  ebc := {
    cntClear := fun _ => rfl
    cntCounts := fun h => by revert h; decide
    faultClear := fun h => by revert h; decide
    faultHeld := fun _ => ⟨by decide, .inl rfl⟩
    abortingTears := fun h => by revert h; decide
    responded := fun h => by revert h; decide
    command := trivial
    phase := rfl
    pins := fun h => by revert h; decide }
  dev := inv_start.dev

theorem inv_settling : settling.Inv where
  ebc := {
    cntClear := fun h => by revert h; decide
    cntCounts := fun _ => by decide
    faultClear := fun _ => ⟨rfl, rfl, rfl⟩
    faultHeld := fun h => by revert h; decide
    abortingTears := fun h => by revert h; decide
    responded := fun h => by revert h; decide
    command := by show decode _ = _; decide
    phase := rfl
    pins := by show WritePins _; decide }
  dev := inv_start.dev

theorem inv_settingUnclaimed : settingUnclaimed.Inv where
  ebc := {
    cntClear := fun _ => rfl
    cntCounts := fun h => by revert h; decide
    faultClear := fun _ => ⟨rfl, rfl, rfl⟩
    faultHeld := fun h => by revert h; decide
    abortingTears := fun h => by revert h; decide
    responded := fun h => by revert h; decide
    command := ⟨.pset 0#5 .high, by decide, rfl⟩
    phase := rfl
    pins := trivial }
  dev := inv_start.dev

/-- The last edge of ENTW. -/
def entering : State :=
  { start with
    ebc := { Ebc.reset with
      seq := .ewCe, cmd := 0x80000000#32
      pincfg := Vector.ofFn fun k : Pin => .output (if inMask maskCtrl k then .high else .low) } }

theorem inv_entering : entering.Inv where
  ebc := {
    cntClear := fun _ => rfl
    cntCounts := fun h => by revert h; decide
    faultClear := fun _ => ⟨rfl, rfl, rfl⟩
    faultHeld := fun h => by revert h; decide
    abortingTears := fun h => by revert h; decide
    responded := fun h => by revert h; decide
    command := by show decode _ = _; decide
    phase := rfl
    pins := by show ControlsHigh _ ∧ AddrLow _ ∧ DataLow _; decide }
  dev := inv_start.dev

/-- The device on the last edge of its write cycle, and on the edge that ends a pulse. -/
def committing : State :=
  { writing with
    par := { tp with dWc := 2, nRecover := 2 }
    dev := { Device.start with wcLeft := 1, wcAddr := some 0x05#8, wcData := some 0xA5#8, wcOk := true } }
def ending : State :=
  { writing with
    dev := { Device.start with inPulse := true, pLen := 1, pAddr := some 0x05#8, pData := some 0xA5#8 } }

theorem inv_committing : committing.Inv where
  ebc := {
    cntClear := fun _ => rfl
    cntCounts := fun h => by revert h; decide
    faultClear := fun _ => ⟨rfl, rfl, rfl⟩
    faultHeld := fun h => by revert h; decide
    abortingTears := fun h => by revert h; decide
    responded := fun h => by revert h; decide
    command := trivial
    phase := rfl
    pins := fun _ => ⟨fun _ => by decide, fun h => by revert h; decide⟩ }
  dev := {
    memory := wf_nil _
    apart := fun h => by revert h; decide
    pulseLength := fun h => by revert h; decide
    writeCycle := by decide }

theorem inv_ending : ending.Inv where
  ebc := inv_writing.ebc
  dev := {
    memory := wf_nil _
    apart := fun _ => rfl
    pulseLength := fun _ => le_refl 1
    writeCycle := by decide }

theorem test_timing_premise : TimingPremise tp := by decide

/-- EncodeInvertsDecode, AssembledWordsAreLegal: the words above. UndefinedOpcodesNamed, both ways: -/
theorem test_undefined_named : decode 0xF0000000#32 = .error .undefinedOpcode ∧ decode 0xC0000001#32 = .error .reservedBits
    ∧ decode 0x20000013#32 = .error .notAPin := by decide

/-- ResetTakesOver. -/
theorem test_hyp_reset : (withInputs settling [resetting]).input.rst = .low ∧
    (withInputs settling [resetPulse]).input.rst ≠ .high ∧
    answers (edge (withInputs settling [resetPulse])) (fun _ => true) = true := by decide

/-- ResetErasesTheRegisters: the middle of a WRB against READY, in a cycle with a reset of either kind. -/
theorem test_hyp_reset_erases : (withInputs settling [resetting]).input.rst ≠ .high ∧
    (withInputs settling [resetPulse]).input.rst ≠ .high ∧ writing.ebc.pincfg = settling.ebc.pincfg ∧
    writing.ebc ≠ settling.ebc := by decide

/-- FirstEdgeAfterReset: after a pulse, and from reset on, with an abort, a command, and neither. -/
theorem test_hyp_first_edge : (withInputs settling [resetPulse]).atEdge = Ebc.reset ∧
    (withInputs settling [resetPulse]).input.rstN = true ∧ (withInputs settling [resetPulse]).input.abort = false ∧
    (withInputs settling [resetPulse]).input.cmdValid = false ∧
    (withInputs start [aborting]).atEdge = Ebc.reset ∧ (withInputs start [aborting]).input.rstN = true ∧
    (withInputs start [aborting]).input.abort = true ∧
    (withInputs start [presenting 0#32]).atEdge = Ebc.reset ∧ (withInputs start [presenting 0#32]).input.rstN = true ∧
    (withInputs start [presenting 0#32]).input.cmdValid = true := by decide

/-- StepRunsDecodedCommand, IllegalWordAnswered, and PlacedWordRuns. -/
theorem test_hyp_step : (withInputs start [presenting 0x80000000#32]).cmdReady = true ∧
    (withInputs start [presenting 0x80000000#32]).input.cmdValid = true ∧
    decode (withInputs start [presenting 0x80000000#32]).input.cmdWord = .ok .entw := by decide
theorem test_hyp_illegal : (withInputs start [presenting 0#32]).cmdReady = true ∧
    (withInputs start [presenting 0#32]).input.cmdValid = true ∧
    legal (withInputs start [presenting 0#32]).input.cmdWord = false := by decide

/-- StepIsEdges: a step that answers a next state, and, in a state that reset does not lead to, one that stops. -/
theorem test_hyp_step_next : answers (step start) (fun t => t.tick == 1) = true := by decide
theorem test_hyp_step_fault :
    (match step { start with ebc := { Ebc.reset with seq := .pExec } } with
      | .fault .noMicroOperation => true
      | _ => false) = true := by decide

/-- EveryCommandEnds, with and without inputs to come. -/
theorem test_hyp_ends : start.cmdReady = true ∧ start.undisturbed ∧
    (withInputs start [EdgeIn.idle, aborting]).cmdReady = true := by decide

/-- DelayHoldsExactly, at the last edge of a delay and before it. -/
theorem test_hyp_delay : settling.quiet ∧ settling.ebc.seq.isDelay = true ∧ settling.ebc.cnt = 0 + 1 ∧
    ({ settling.ebc with seq := .rAccess, cnt := 3 } : Ebc).seq.isDelay = true := by decide

/-- After V-A1 with `abort` low again: a response on the port and `ABORT_LATCH` set. -/
def aborted : State :=
  { start with ebc := { Ebc.reset with abortLatch := true, rspValid := true, rspStatus := .aborted } }

/-- ResponseHolds: an edge without a response, one with a response from a micro-state and one from an acceptance; and
the READY edge from registers that are not the reset values, with what V-A2 says of it. -/
theorem test_hyp_response : start.input.rstN = true ∧ answers (edge start) (fun t => !t.ebc.rspValid) = true ∧
    answers (edge entering) (·.ebc.rspValid) = true ∧
    answers (edge (withInputs start [presenting 0xA0000000#32])) (·.ebc.rspValid) = true := by decide
theorem test_hyp_ready_edge : aborted.input.rstN = true ∧ aborted.input.abort = false ∧
    aborted.input.cmdValid = false ∧ aborted.atEdge.seq = .ready ∧ aborted.atEdge ≠ Ebc.reset ∧
    seen (step aborted) = some (0, 0, .aborted, 0) := by decide

/-- RegisterWriters: edges on which `CMD` with the operand registers, a pin, `PHASE`, `RDATA_R` with the response, the
fault record, and the abort bits with `CNT` change; and a reset. -/
theorem test_hyp_writers :
    answers (edge (withInputs writing [presenting 0xB00005A5#32]))
      (fun t => t.ebc.cmd != 0 && t.ebc.addrR != 0 && t.ebc.wdataR != 0) = true ∧
    answers (edge settling) (fun t => pinAt t.ebc.pincfg pinWE != pinAt settling.ebc.pincfg pinWE) = true ∧
    answers (edge entering) (fun t => t.ebc.phase != entering.ebc.phase && t.ebc.rspValid &&
      t.ebc.cmd == entering.ebc.cmd) = true ∧
    answers (edge { readingA5 with ebc := { readingA5.ebc with seq := .rSample, cmd := 0xC0000500#32 } })
      (fun t => t.ebc.rdataR != readingA5.ebc.rdataR && t.ebc.rspData != readingA5.ebc.rspData) = true ∧
    answers (edge (withInputs settling [portError])) (fun t => t.ebc.faultCause != settling.ebc.faultCause) = true ∧
    answers (edge (withInputs settling [aborting]))
      (fun t => t.ebc.abortLatch != settling.ebc.abortLatch && t.ebc.aborting != settling.ebc.aborting &&
        t.ebc.cnt != settling.ebc.cnt) = true ∧
    answers (edge (withInputs settling [resetting])) (fun t => t.ebc.cmd != settling.ebc.cmd) = true := by decide

/-- CfgPrimitive, SetPrimitive, GetPrimitive: a fault of each kind, an empty set under a port error, a success. -/
theorem test_hyp_cfg : cfgPins maskCtrl .output true true directPins = .error ⟨.hwfPort, pinWE⟩ ∧
    (cfgPins 0 .output true true directPins).toBool = true ∧
    (cfgPins maskAll .input false false directPins).toBool = true := by decide
theorem test_hyp_set : setPins maskAll 0 true directPins = .error ⟨.hwfDirection, 0⟩ ∧
    setPins (maskPin pinCE) 0 true directPins = .error ⟨.hwfPort, pinCE⟩ ∧
    (setPins 0 0 true directPins).toBool = true ∧ (setPins maskCtrl 0 false directPins).toBool = true := by decide
theorem test_hyp_get :
    getPins maskAll true direct.sample direct.ebc.pincfg = .error ⟨.hwfDirection, 0⟩ ∧
    getPins maskData true direct.sample direct.ebc.pincfg = .error ⟨.hwfPort, 8⟩ ∧
    (getPins 0 true direct.sample direct.ebc.pincfg).toBool = true ∧
    (getPins maskData false direct.sample direct.ebc.pincfg).toBool = true ∧
    direct.line 8 = .high := by decide

/-- PcfgConfiguresItsMask, and its clause on the cells. -/
theorem test_hyp_pcfg : direct.quiet ∧ direct.ebc.seq = .ready ∧ direct.ebc.fault = false ∧
    direct.ebc.phase = .idle ∧ direct.atRest ∧ direct.writeOff := by decide

/-- PsetDrivesItsPin at pins 16 and 18. -/
theorem test_hyp_pset : direct.quiet ∧ direct.ebc.seq = .ready ∧ direct.ebc.fault = false ∧
    direct.ebc.phase = .idle ∧ pinIndexLegal 16#5 = true ∧ pinIndexLegal 18#5 = true ∧
    (pinAt direct.ebc.pincfg (pinOfIndex 16#5)).isOutput = true ∧
    (pinAt direct.ebc.pincfg (pinOfIndex 18#5)).isOutput = true := by decide

/-- PgetSamplesItsNet at pins 8 and 15, with its clause on a pulled-up net. -/
theorem test_hyp_pget : direct.quiet ∧ direct.ebc.seq = .ready ∧ direct.ebc.fault = false ∧
    direct.ebc.phase = .idle ∧ pinIndexLegal 8#5 = true ∧ pinIndexLegal 15#5 = true ∧
    (pinAt direct.ebc.pincfg (pinOfIndex 8#5)).isInput = true ∧
    pinAt direct.ebc.pincfg (pinOfIndex 15#5) = .input .up ∧ passiveNet (direct.pin pinCE) = .high := by decide

/-- DirectionViolationFaults: an Unclaimed pin fails both checks, an Input one a PSET, an Output one a PGET. -/
theorem test_hyp_direction : direct.undisturbed ∧ direct.ebc.seq = .ready ∧ direct.ebc.fault = false ∧
    direct.ebc.phase = .idle ∧ pinIndexLegal 15#5 = true ∧ pinIndexLegal 16#5 = true ∧ pinIndexLegal 0#5 = true ∧
    (pinAt direct.ebc.pincfg (pinOfIndex 0#5)).isOutput = false ∧
    (pinAt direct.ebc.pincfg (pinOfIndex 0#5)).isInput = false ∧
    (pinAt direct.ebc.pincfg (pinOfIndex 15#5)).isOutput = false ∧
    (pinAt direct.ebc.pincfg (pinOfIndex 16#5)).isInput = false := by decide

/-- PortErrorStopsTheAccess, at W_SETTLE's last edge. -/
theorem test_hyp_port : (withInputs settling [portError]).Inv ∧ (withInputs settling [portError]).input.rst = .high ∧
    (withInputs settling [portError]).input.abort = false ∧ (withInputs settling [portError]).input.portErr = true ∧
    lowestPin (withInputs settling [portError]).ebc.accessed = some pinWE ∧
    (withInputs settling [portError]).ebc.seq ≠ .pExec :=
  ⟨⟨inv_settling.ebc, inv_settling.dev⟩, by decide⟩

/-- OwnershipFaultAtAcceptance, PhaseFaultAtAcceptance in either phase. -/
theorem test_hyp_phases : writing.cmdReady = true ∧ writing.ebc.fault = false ∧ writing.ebc.phase ≠ .idle ∧
    writing.ebc.phase ≠ .readActive ∧ reading.cmdReady = true ∧ reading.ebc.phase ≠ .writeActive ∧
    reading.ebc.fault = false ∧ writing.atEdge = writing.ebc ∧ reading.atEdge = reading.ebc ∧
    pinIndexLegal 0#5 = true ∧ pinIndexLegal 18#5 = true := by decide
/-- PhaseFaultAtAcceptance in IDLE. -/
theorem test_hyp_phase_idle : start.cmdReady = true ∧ start.atEdge.fault = false ∧
    start.atEdge.phase ≠ .writeActive ∧ start.atEdge.phase ≠ .readActive := by decide

/-- RejectedWhileFaulted. -/
theorem test_hyp_rejected : faulted.cmdReady = true ∧ faulted.atEdge.fault = true ∧ Instr.entw.wellFormed = true ∧
    Instr.entw ≠ .prel := by decide

/-- NoPinAnsweredIllegal at both ends of 19–31. -/
theorem test_hyp_no_pin : start.cmdReady = true ∧ 19 ≤ (19#5).toNat ∧ 19 ≤ (31#5).toNat := by decide

/-- PrelReleasesEverything, PrelReturnsToReset: from a fault in an active phase. -/
theorem test_hyp_prel : faulted.Inv ∧ faulted.undisturbed ∧ faulted.ebc.seq = .ready ∧ faulted.ebc.aborting = false ∧
    faulted.atRest ∧ faulted.writeOff :=
  ⟨inv_faulted, by decide⟩

/-- AbortEntersTeardown and AbortReleasesInThreeEdges, from the middle of a WRB. -/
theorem test_hyp_abort : (withInputs settling [aborting, aborting, aborting]).input.rstN = true ∧
    ((withInputs settling [aborting, aborting, aborting]).inputAt 1).rst = .high ∧
    ((withInputs settling [aborting, aborting, aborting]).inputAt 2).rst = .high ∧
    ((withInputs settling [aborting, aborting, aborting]).inputAt 0).abort = true ∧
    ((withInputs settling [aborting, aborting, aborting]).inputAt 1).abort = true ∧
    (withInputs settling [aborting, aborting, aborting]).atEdge.abortLatch = false := by decide

/-- WE̅ Output Low, OE̅ Input, CE̅ Output Low, A0 Output Low, on a teardown's first edge: a PREL's, and an abort's. -/
def tearing (aborting : Bool) : State :=
  { start with
    ebc := { Ebc.reset with
      seq := .tCtl, aborting := aborting, abortLatch := aborting
      pincfg := Vector.ofFn fun k : Pin => if k = pinOE then .input .up else if k = 1 then .unclaimed else .output .low } }

/-- TeardownDeassertsControls, both teardowns, a port error on the way. -/
theorem test_hyp_teardown : (tearing false).ebc.seq = .tCtl ∧ (tearing false).input.rst = .high ∧
    (tearing false).input.abort = false ∧ (tearing true).ebc.seq = .tCtl ∧
    (withInputs (tearing true) [aborting]).input.rst = .high ∧ (withInputs (tearing true) [aborting]).input.abort = true ∧
    (withInputs (tearing true) [aborting]).ebc.abortLatch = true := by decide
/-- 40_gpio.md R108: T_CTL raises the Output control lines and leaves the other pins. -/
theorem test_tctl : answers (edge (withInputs (tearing false) [portError])) (fun t =>
    pinAt t.ebc.pincfg pinWE == .output .high && pinAt t.ebc.pincfg pinCE == .output .high &&
      pinAt t.ebc.pincfg pinOE == .input .up && pinAt t.ebc.pincfg 0 == .output .low &&
      pinAt t.ebc.pincfg 1 == .unclaimed && t.ebc.seq == .tRel) = true := by decide

/-- AbortReleasesInThreeEdges: `abort` falls at the second edge, at the third, and falls and rises again. -/
theorem test_hyp_abort_falls : ((withInputs settling [aborting]).inputAt 1).abort = false ∧
    ((withInputs settling [aborting]).inputAt 1).rst = .high ∧ ((withInputs settling [aborting]).inputAt 2).rst = .high ∧
    ((withInputs settling [aborting]).inputAt 2).abort = false ∧
    ((withInputs settling [aborting, aborting]).inputAt 1).abort = true ∧
    ((withInputs settling [aborting, aborting]).inputAt 2).abort = false ∧
    ((withInputs settling [aborting, EdgeIn.idle, aborting]).inputAt 0).abort = true ∧
    ((withInputs settling [aborting, EdgeIn.idle, aborting]).inputAt 1).abort = false ∧
    ((withInputs settling [aborting, EdgeIn.idle, aborting]).inputAt 2).abort = true := by decide

/-- AbortAnswersOnce. -/
theorem test_hyp_abort_held :
    (answers (edges 3 (withInputs start [aborting, aborting, aborting, aborting]))
      fun t => t.input.rstN && t.input.abort && t.atEdge.abortLatch && t.atEdge.seq == .ready) = true := by decide

/-- FaultEntryIsPrecise, SequencesKeepDirection: P_EXEC's PSET of an Unclaimed pin. -/
theorem test_hyp_fault_entry : settingUnclaimed.Inv ∧ settingUnclaimed.ebc.fault = false ∧
    (answers (edge settingUnclaimed)
      fun t => t.ebc.fault && t.ebc.rspValid && t.ebc.rspStatus == .hwfDirection) = true :=
  ⟨inv_settingUnclaimed, by decide⟩

/-- FaultEntryIsPrecise: a port error at W_SETTLE, and a fault at acceptance. -/
theorem test_hyp_fault_kinds : settling.ebc.fault = false ∧
    answers (edge (withInputs settling [portError]))
      (fun t => t.ebc.fault && t.ebc.faultCause == .hwfPort && t.ebc.faultPin == 16#5) = true ∧
    answers (edge (withInputs start [presenting 0xC0000500#32]))
      (fun t => t.ebc.fault && t.ebc.faultCause == .hwfPhase && t.ebc.faultPin == 0x1F#5) = true := by decide

/-- FaultHeldUntilTeardown. -/
theorem test_hyp_fault_held : faulted.Inv ∧ faulted.ebc.fault = true ∧ answers (edge faulted) (·.ebc.fault) = true :=
  ⟨inv_faulted, by decide⟩

/-- PhaseChangesOnlyOnItsEdges. -/
theorem test_hyp_phase_change : entering.Inv ∧
    answers (edge entering) (fun t => t.ebc.phase != entering.ebc.phase) = true :=
  ⟨inv_entering, by decide⟩

/-- EntwEntersWriteActive, EntrEntersReadActive, ExitLeavesThePhase: from IDLE and from an active phase. -/
theorem test_hyp_enter : direct.quiet ∧ direct.ebc.seq = .ready ∧ direct.ebc.fault = false ∧
    PhaseRow direct.ebc.phase direct.ebc.pincfg ∧ direct.atRest ∧ direct.writeOff := by decide
theorem test_hyp_enter_active : writing.quiet ∧ writing.ebc.seq = .ready ∧ writing.ebc.fault = false ∧
    writing.ebc.phase ≠ .idle ∧ PhaseRow writing.ebc.phase writing.ebc.pincfg ∧ writing.atRest ∧
    writing.writeOff := by decide

/-- WrbDrivesAndCompletes, WrbWritesExactlyItsCell, WrbNeverTouchesAnotherCell (with an abort to come), WrbPadTrace at the
first and the last edge. -/
theorem test_hyp_wrb : writing.quiet ∧ writing.ebc.seq = .ready ∧ writing.ebc.fault = false ∧
    writing.ebc.phase = .writeActive ∧ WritePins writing.ebc.pincfg ∧ TimingPremise writing.par ∧ writing.atRest ∧
    Memory.wf writing.par.mem0 writing.dev.mem :=
  ⟨by decide, by decide, by decide, by decide, by decide, by decide, by decide, wf_nil _⟩
theorem test_hyp_wrb_aborted :
    (withInputs writing [EdgeIn.idle, EdgeIn.idle, aborting]).cmdReady = true ∧ writing.ebc.fault = false ∧
    writing.ebc.phase = .writeActive ∧ WritePins writing.ebc.pincfg ∧ writing.atRest ∧
    (answers (exec (.wrb 0x05#8 0xA5#8) (withInputs writing [EdgeIn.idle, EdgeIn.idle, aborting]))
      fun t => t.ebc.rspStatus == .aborted) = true := by decide
theorem test_hyp_wrb_trace : writing.ebc.seq = .ready ∧ writing.ebc.fault = false ∧
    writing.ebc.phase = .writeActive ∧ WritePins writing.ebc.pincfg ∧
    (withInputs writing [presenting 0xB00005A5#32]).quiet ∧
    (withInputs writing [presenting 0xB00005A5#32]).input.cmdValid = true ∧
    (withInputs writing [presenting 0xB00005A5#32]).input.cmdWord = encode (.wrb 0x05#8 0xA5#8) ∧
    0 ≤ 2 + (writing.par.nSettle : Nat) + writing.par.nPulse + writing.par.nRecover := by decide

/-- RdbReadsItsCell. -/
theorem test_hyp_rdb : readingA5.quiet ∧ readingA5.ebc.seq = .ready ∧ readingA5.ebc.fault = false ∧
    readingA5.ebc.phase = .readActive ∧ ReadPins readingA5.ebc.pincfg ∧ readingA5.atRest ∧
    readingA5.par.dAcc ≤ (readingA5.par.nAccess : Nat) := by decide

/-- ReadReturnsLatestWrite. -/
theorem test_hyp_latest : start.quiet ∧ start.ebc.seq = .ready ∧ start.ebc.fault = false ∧
    PhaseRow start.ebc.phase start.ebc.pincfg ∧ TimingPremise start.par ∧ start.atRest ∧ start.writeOff ∧
    Memory.wf start.par.mem0 start.dev.mem :=
  ⟨by decide, by decide, by decide, by decide, by decide, by decide, by decide, wf_nil _⟩

/-- DeviceDrivesTheCell. -/
theorem test_hyp_device : readingA5.seenLow pinCE = true ∧ readingA5.seenLow pinOE = true ∧
    readingA5.seenLow pinWE = false ∧ readingA5.atRest ∧ readingA5.devAddr = some 0x00#8 ∧
    readingA5.par.dAcc ≤ readingA5.ageANow ∧ readingA5.par.dAcc ≤ readingA5.ageSNow ∧
    (pinAt readingA5.ebc.pincfg (pinIO 0)).padOe = false ∧ (pinAt readingA5.ebc.pincfg (pinIO 7)).padOe = false := by
  decide

/-- OnlyACommitChangesCells, by the write cycle and by the end of a pulse. -/
theorem test_hyp_commit : committing.Inv ∧
    memRead committing.par.mem0 committing.devStep.mem 0x05#8 ≠ committing.cell 0x05#8 :=
  ⟨inv_committing, by decide⟩
theorem test_hyp_pulse_end : ending.Inv ∧
    memRead ending.par.mem0 ending.devStep.mem 0x05#8 ≠ ending.cell 0x05#8 :=
  ⟨inv_ending, by decide⟩

/-- DrivenHighExcludes. -/
theorem test_hyp_driven_high : pinAt direct.ebc.pincfg pinWE = .output .high ∧
    pinAt direct.ebc.pincfg pinCE = .output .high ∧ pinAt direct.ebc.pincfg pinOE = .output .high := by decide

/-- ContentionIsSticky: the data lines driven while the device drives them. -/
def contending : State :=
  { start with ebc := { Ebc.reset with
      pincfg := Vector.ofFn fun k : Pin => .output (if k = pinWE then .high else .low) } }
theorem test_hyp_contention : contending.devDrives = true ∧
    (pinAt contending.ebc.pincfg (pinIO 0)).padOe = true ∧
    answers (edge contending) (·.dev.contention) = true := by decide

/-- SequencesNeverContend, InvariantKeptByEdge, InvariantKeptByStep, NoEdgeFaults. -/
theorem test_hyp_invariant : writing.Inv ∧ DataDriveSafe writing.ebc.pincfg ∧ writing.ebc.seq ≠ .pExec ∧
    answers (edge writing) (fun _ => true) = true ∧
    answers (step (writing.withFetchWord 32 0xB00005A5)) (fun _ => true) = true :=
  ⟨inv_writing, by decide⟩

end Sys2Proof.Tests
end

section
/-! The machine never stops (spec/00_scope.md R13, 70_reset_and_hazards.md R205): the model's only fault stands at P_EXEC
and X_CE, for a `CMD` that acceptance never leaves beside them (notes/assumptions/10.md). The invariant's `CommandFits`
says what `CMD` holds in each micro-state, and that is all that is needed for an edge to answer. -/

namespace Sys2Proof

/-! ## The opcode of a word that decodes -/

/-- A comparison under a mask that covers bits 31..28 fixes the opcode (spec/30_encoding.md R88). -/
theorem opcodeOf_of_masked {w mask v : Word} (hmask : opcodeOf mask = BitVec.allOnes 4) (h : w &&& mask = v) :
    opcodeOf w = opcodeOf v := by
  have hand : opcodeOf (w &&& mask) = opcodeOf w &&& opcodeOf mask := BitVec.extractLsb'_and
  rw [h, hmask, BitVec.and_allOnes] at hand
  exact hand.symm

/-- A word that decodes carries the opcode of its command. -/
theorem opcodeOf_of_decode {w : Word} {i : Instr} (h : decode w = .ok i) : opcodeOf w = i.opcode := by
  unfold decode at h
  split_ifs at h with hpcfg hpset _ hpget _ hprel hentw hentr hexit hwrb hrdb <;> cases h
  · exact opcodeOf_of_masked (by decide) hpcfg
  · exact opcodeOf_of_masked (by decide) hpset
  · exact opcodeOf_of_masked (by decide) hpget
  · exact congrArg opcodeOf hprel
  · exact congrArg opcodeOf hentw
  · exact congrArg opcodeOf hentr
  · exact congrArg opcodeOf hexit
  · exact opcodeOf_of_masked (by decide) hwrb
  · exact opcodeOf_of_masked (by decide) hrdb

end Sys2Proof

namespace Sys2Proof.Machine

section
variable {x : EdgeCtx} {e : Ebc}

/-! ## The two micro-states that can have no micro-operation -/

/-- P_EXEC performs every pin command. -/
theorem pExec_answers {i : Instr} (hd : decode e.cmd = .ok i) (hi : isPinCommand i = true) :
    ∃ e', pExec x e = some e' := by
  cases i with
  | pcfg m md b => exact ⟨pcfgExec m md b x e, by simp [pExec, hd]⟩
  | pset n l => exact ⟨psetExec n l x e, by simp [pExec, hd]⟩
  | pget n => exact ⟨pgetExec n x e, by simp [pExec, hd]⟩
  | prel | entw | entr | exit | wrb | rdb => cases hi

/-- After X_CE the commands that leave a phase go on: ENTW and ENTR to their entry sequences, EXIT to completion. -/
theorem xCeNext_answers (h : decode e.cmd = .ok .entw ∨ decode e.cmd = .ok .entr ∨ decode e.cmd = .ok .exit) :
    ∃ e', xCeNext e = some e' := by
  rcases h with h | h | h
  · exact ⟨{ e with seq := .ewCtl }, by simp [xCeNext, opcodeOf_of_decode h, Instr.opcode]⟩
  · exact ⟨{ e with seq := .erData }, by simp [xCeNext, opcodeOf_of_decode h, Instr.opcode]⟩
  · exact ⟨e.complete 0, by simp [xCeNext, opcodeOf_of_decode h, Instr.opcode]⟩

/-- X_CE answers for those commands, whether CE̅ can be set or raises a HardwareFault. -/
theorem xCe_answers (h : decode e.cmd = .ok .entw ∨ decode e.cmd = .ok .entr ∨ decode e.cmd = .ok .exit) :
    ∃ e', xCe x e = some e' := by
  unfold xCe
  split
  · exact xCeNext_answers h
  · exact ⟨_, rfl⟩

/-! ## Every edge -/

/-- A micro-state that belongs to the command in `CMD` has its micro-operation. -/
theorem microOp_answers (h : e.CommandFits) : ∃ e', microOp x e = some e' := by
  cases hs : e.seq with
  | pExec =>
    obtain ⟨i, hd, hi⟩ : ∃ i, decode e.cmd = .ok i ∧ isPinCommand i = true := by
      simpa only [Ebc.CommandFits, hs] using h
    simpa only [microOp, hs] using pExec_answers hd hi
  | xCe =>
    have hcmd : decode e.cmd = .ok .entw ∨ decode e.cmd = .ok .entr ∨ decode e.cmd = .ok .exit := by
      simpa only [Ebc.CommandFits, hs] using h
    simpa only [microOp, hs] using xCe_answers hcmd
  | _ => simp [microOp, hs]

/-- `CommandFits` reads none of the registers that the opening of an edge writes. -/
theorem Ebc.commandFits_openEdge (b : Bool) : (e.openEdge b).CommandFits ↔ e.CommandFits := Iff.rfl

/-- The EBC's part of an edge answers, whatever the inputs are. -/
theorem ebcEdge_answers (inp : EdgeIn) (h : e.CommandFits) : ∃ e', ebcEdge x inp e = some e' := by
  unfold ebcEdge
  split_ifs
  · exact ⟨_, rfl⟩
  · exact ⟨_, rfl⟩
  · exact ⟨_, rfl⟩
  · exact microOp_answers ((Ebc.commandFits_openEdge inp.abort).mpr h)

end

/-- Any command fits READY, so the reset values fit. -/
theorem Ebc.commandFits_reset : Ebc.reset.CommandFits := trivial

/-- What an edge finds fits its command, after a fall of `rst_n` too. -/
theorem State.Inv.commandFits_atEdge {s : State} (h : s.Inv) : s.atEdge.CommandFits := by
  rcases s.atEdge_cases with ⟨_, he⟩ | ⟨_, he⟩ <;> rw [he]
  · exact h.ebc.command
  · exact Ebc.commandFits_reset

/-- Settles O57: at an edge with `rst_n = 0` the reset values stand, at any other the micro-state has its
micro-operation, because it belongs to the command in `CMD`. -/
theorem noEdgeFaults : Obligations.NoEdgeFaults := by
  intro s hinv
  cases hr : s.input.rstN with
  | false => exact ⟨s.advance Ebc.reset, edge_reset hr⟩
  | true =>
    obtain ⟨e', he⟩ := ebcEdge_answers (x := s.ctx) s.input hinv.commandFits_atEdge
    exact ⟨s.advance e', by rw [edge_running hr, he]⟩

end Sys2Proof.Machine
end

section
/-! The outputs `status` and `pincfg` and the pads (spec/10_state.md R22, R33; 40_gpio.md R100): each word is read back
field by field, and each pad port pin by pin. -/

namespace Sys2Proof.Machine

/-! ## A field of a 32-bit word -/

section
variable {v w : Nat}

/-- A field read at its own place. -/
theorem extract_field_same (x : BitVec w) {n : Nat} (h : n + w ≤ 32) :
    (x.setWidth 32 <<< n).extractLsb' n w = x := by
  ext j hj
  have hn : n + j < 32 := by omega
  simp [hn, BitVec.getLsbD_eq_getElem hj]

/-- A field reads as zeros from a place that it does not meet. -/
theorem extract_field_disjoint (x : BitVec w) {n m : Nat} (h : n + w ≤ m ∨ m + v ≤ n) :
    (x.setWidth 32 <<< n).extractLsb' m v = 0#v := by
  ext j hj
  rcases h with h | h
  · have hx : x.getLsbD (m + j - n) = false := BitVec.getLsbD_of_ge _ _ (by omega)
    simp [hx]
  · have hn : m + j < n := by omega
    simp [hn]

end

/-- A bit is a field of width 1. -/
theorem getLsbD_eq_of_extract {x : Word} {n : Nat} {b : Bool} (h : x.extractLsb' n 1 = BitVec.ofBool b) :
    x.getLsbD n = b := by
  simpa using congrArg (·.getLsbD 0) h

/-! ## The status word -/

/-- The status word as the fields of R33, each shifted to its place. -/
theorem statusWord_fields (e : Ebc) :
    statusWord e = e.phase.code.setWidth 32 <<< 0 ||| (BitVec.ofBool e.busy).setWidth 32 <<< 2
      ||| (BitVec.ofBool e.fault).setWidth 32 <<< 3 ||| e.faultCause.code.setWidth 32 <<< 4
      ||| e.faultPin.setWidth 32 <<< 8 ||| (BitVec.ofBool e.abortLatch).setWidth 32 <<< 13
      ||| e.faultOp.setWidth 32 <<< 14 := by
  simp [statusWord, bitAt]

theorem Ebc.busy_eq (e : Ebc) : e.busy = decide (e.seq ≠ .ready) := by
  simp [Ebc.busy, bne, beq_eq_decide]

/-- Settles O7: the seven fields lie apart and end below bit 18, so each place reads its own field and no other. -/
theorem statusWordFields : Obligations.StatusWordFields := by
  intro e
  rw [statusWord_fields, ← Ebc.busy_eq]
  refine ⟨Eq.trans (b := e.phase.code) ?phase ?phaseCode, getLsbD_eq_of_extract ?busy, getLsbD_eq_of_extract ?fault,
    Eq.trans (b := e.faultCause.code) ?cause ?causeCode, ?pin, getLsbD_eq_of_extract ?latch, ?op, ?above⟩
  case phaseCode => cases e.phase <;> rfl
  case causeCode => cases e.faultCause <;> rfl
  all_goals simp [-BitVec.shiftLeft_zero, BitVec.extractLsb'_or, extract_field_same, extract_field_disjoint]

/-! ## The `pincfg` word -/

/-- The number behind the `pincfg` word has the entries' codes as its digits in base 8. -/
theorem pincfgWord_eq_ofDigits (p : Pins) :
    pincfgWord p = BitVec.ofNat 57 (Nat.ofDigits 8 (p.toList.map fun c => c.code.toNat)) := by
  simp only [pincfgWord, Nat.ofDigits_eq_foldr, List.foldr_map, Nat.cast_id, Nat.add_comm, Nat.mul_comm]

/-- Digit k in base 8 is bits [3k+2:3k]. -/
theorem extract_octal_digit (n : Nat) {k : Nat} (hk : k < 19) :
    (BitVec.ofNat 57 n).extractLsb' (3 * k) 3 = BitVec.ofNat 3 (n / 8 ^ k) := by
  ext j hj
  have hlt : 3 * k + j < 57 := by omega
  have hpow : 8 ^ k = 2 ^ (3 * k) := by rw [pow_mul, show (2 : Nat) ^ 3 = 8 from rfl]
  rw [BitVec.getElem_extractLsb', BitVec.getLsbD_ofNat, ← BitVec.getLsbD_eq_getElem, BitVec.getLsbD_ofNat, hpow,
    Nat.testBit_div_two_pow, Nat.add_comm j]
  simp [hlt, hj]

/-- Entry k of the `pincfg` word (spec/10_state.md R22). -/
theorem pincfgWord_entry (p : Pins) (k : Pin) :
    (pincfgWord p).extractLsb' (3 * k.val) 3 = (pinAt p k).code := by
  have hlen : k.val < (p.toList.map fun c => c.code.toNat).length := by simp
  have hdigits : ∀ d ∈ p.toList.map (fun c => c.code.toNat), d < 8 := by
    simp only [List.mem_map, forall_exists_index, and_imp]
    rintro _ c _ rfl
    exact c.code.isLt
  have hentry : (p.toList.map fun c => c.code.toNat)[k.val] = (pinAt p k).code.toNat := by simp [pinAt]
  rw [pincfgWord_eq_ofDigits, extract_octal_digit _ k.isLt,
    Nat.ofDigits_div_pow_eq_ofDigits_drop _ (by decide) _ hdigits, List.drop_eq_getElem_cons hlen, hentry,
    Nat.ofDigits_cons]
  apply BitVec.eq_of_toNat_eq
  have hcode := (pinAt p k).code.isLt
  rw [BitVec.toNat_ofNat]
  omega

/-! ## The pads (spec/40_gpio.md R100) -/

@[simp] theorem padBus_pin (out : PinCfg → Bool) (p : Pins) (k : Pin) :
    (padBus out p).getLsbD k = out (pinAt p k) := by
  simp [padBus]

section
variable (c : PinCfg)

theorem PinCfg.padSel_iff : c.padSel = true ↔ c ≠ .unclaimed := by
  cases c <;> simp [PinCfg.padSel, PinCfg.claimed]

theorem PinCfg.padOe_iff : c.padOe = true ↔ ∃ l, c = .output l := by
  cases c <;> simp [PinCfg.padOe, PinCfg.claimed, PinCfg.dir]

theorem PinCfg.padO_iff : c.padO = true ↔ c = .output .high := by
  rcases c with _ | _ | ⟨_ | _⟩ <;> simp [PinCfg.padO, PinCfg.claimed, PinCfg.dir, PinCfg.val, Level.bit]

theorem PinCfg.padPu_iff : c.padPu = true ↔ c = .input .up := by
  rcases c with _ | ⟨_ | _⟩ | _ <;> simp [PinCfg.padPu, PinCfg.claimed, PinCfg.dir, PinCfg.val]

end

/-- Settles O8: the entry's digit of the `pincfg` word is its code, and each pad bit is R100's function of the entry. -/
theorem pincfgWordFields : Obligations.PincfgWordFields := by
  intro e abort rstN k
  simp only [Ebc.outputs_pincfg, Ebc.outputs_padSel, Ebc.outputs_padOe, Ebc.outputs_padO, Ebc.outputs_padPu,
    padBus_pin]
  refine ⟨(pincfgWord_entry e.pincfg k).trans ?code, PinCfg.padSel_iff _, PinCfg.padOe_iff _, PinCfg.padO_iff _,
    PinCfg.padPu_iff _⟩
  rcases pinAt e.pincfg k with _ | ⟨_ | _⟩ | ⟨_ | _⟩ <;> rfl

end Sys2Proof.Machine
end

section
/-! Which registers an edge can write (spec/10_state.md R36). What a micro-state can do and what an acceptance can do is
said once, as an inductive with one constructor for each kind of outcome; the rows of R36 are read off each kind. -/

namespace Sys2Proof.Machine

/-! ## The HardwareFaults (spec/60_exceptions.md R160) -/

@[simp] theorem hwfDirection_isHardwareFault : Status.hwfDirection.isHardwareFault = true := by decide
@[simp] theorem hwfPhase_isHardwareFault : Status.hwfPhase.isHardwareFault = true := by decide
@[simp] theorem hwfOwnership_isHardwareFault : Status.hwfOwnership.isHardwareFault = true := by decide
@[simp] theorem hwfPort_isHardwareFault : Status.hwfPort.isHardwareFault = true := by decide

/-! ## The pin primitives: which pins they write, which faults they raise -/

section
variable {m v : PinMask} {md : Mode} {b pe : Bool} {p p' : Pins}

/-- `cfg` writes only pins of its set (spec/40_gpio.md R101). -/
theorem cfgPins_writes (h : cfgPins m md b pe p = .ok p') {k : Pin} (hk : pinAt p' k ≠ pinAt p k) :
    inMask m k = true := by
  rcases cfgPins_cases m md b pe p with hc | ⟨_, _, _, hc⟩
  · obtain rfl : p' = configurePins m md b p := Except.ok.inj (h.symm.trans hc)
    by_contra hm
    exact hk (by simp [hm])
  · simp [hc] at h

/-- `set` writes only pins of its set (spec/40_gpio.md R102). -/
theorem setPins_writes (h : setPins m v pe p = .ok p') {k : Pin} (hk : pinAt p' k ≠ pinAt p k) :
    inMask m k = true := by
  rcases setPins_cases m v pe p with ⟨_, hc⟩ | ⟨_, _, _, hc⟩ | ⟨_, _, _, _, hc⟩
  · obtain rfl : p' = drivePins m v p := Except.ok.inj (h.symm.trans hc)
    by_contra hm
    exact hk (by simp [hm])
  · simp [hc] at h
  · simp [hc] at h

theorem cfgPins_faults {f : PinFault} (h : cfgPins m md b pe p = .error f) : f.cause.isHardwareFault = true := by
  rcases cfgPins_cases m md b pe p with hc | ⟨_, _, _, hc⟩ <;> rw [hc] at h <;> cases h
  exact hwfPort_isHardwareFault

theorem setPins_faults {f : PinFault} (h : setPins m v pe p = .error f) : f.cause.isHardwareFault = true := by
  rcases setPins_cases m v pe p with ⟨_, hc⟩ | ⟨_, _, _, hc⟩ | ⟨_, _, _, _, hc⟩ <;> rw [hc] at h <;> cases h
  · exact hwfDirection_isHardwareFault
  · exact hwfPort_isHardwareFault

theorem getPins_faults {g : Pin → Bool} {f : PinFault} (h : getPins m pe g p = .error f) :
    f.cause.isHardwareFault = true := by
  rcases getPins_cases m pe g p with ⟨_, hc⟩ | ⟨_, _, _, hc⟩ | ⟨_, _, _, _, hc⟩ <;> rw [hc] at h <;> cases h
  · exact hwfDirection_isHardwareFault
  · exact hwfPort_isHardwareFault

end

/-! ## What a micro-state can do -/

/-- Pin file `p` differs from that of `e` only where the micro-state of `e` accesses a pin with `cfg` or `set`. -/
def Ebc.WritesAccessed (e : Ebc) (p : Pins) : Prop :=
  ∀ k, pinAt p k ≠ pinAt e.pincfg k → inMask e.accessed k = true ∧ e.samples = false

/-- The values that the micro-state of `e` may give to `PINCFG`, `PHASE`, `CNT` and `RDATA_R`; a register whose
hypothesis is left out keeps its value. -/
structure Ebc.Allows (e : Ebc) (p : Pins) (ph : Phase) (n : Nat) (r : Byte) : Prop where
  pins : e.WritesAccessed p := by simp [Ebc.WritesAccessed]
  phase : ph ≠ e.phase → e.seq = .ewCe ∨ e.seq = .erOe ∨ e.seq = .xCe := by simp
  cnt : n ≠ e.cnt → e.seq = .wData ∨ e.seq = .wSettle ∨ e.seq = .wPulse ∨ e.seq = .wRecover ∨ e.seq = .rAddr ∨
    e.seq = .rAccess := by simp
  rdataR : r ≠ e.rdataR → e.seq = .rSample := by simp

/-- All that a micro-state other than READY can do on its edge. -/
inductive MicroOutcome (e : Ebc) : Ebc → Prop
  /-- It goes on to micro-state `q`. -/
  | goesOn {p : Pins} {ph : Phase} {n : Nat} {r : Byte} (q : Seq) (h : e.Allows p ph n r) :
    MicroOutcome e { e with pincfg := p, phase := ph, cnt := n, rdataR := r, seq := q }
  /-- It completes the command with byte `d`. -/
  | completes {p : Pins} {ph : Phase} {n : Nat} {r : Byte} (d : Byte) (h : e.Allows p ph n r) :
    MicroOutcome e ({ e with pincfg := p, phase := ph, cnt := n, rdataR := r }.complete d)
  /-- It takes a HardwareFault. -/
  | faults (cause : Status) (q : BitVec 5) (h : cause.isHardwareFault = true) : MicroOutcome e (e.raiseFault cause q)
  /-- It is T_CTL. -/
  | deasserts (h : e.seq = .tCtl) : MicroOutcome e e.teardownControls
  /-- It is T_REL. -/
  | releases (h : e.seq = .tRel) : MicroOutcome e e.teardownRelease

section
variable {x : EdgeCtx} {e e' : Ebc}

/-- A primitive and what follows it: a primitive's fault is a HardwareFault, so only its success matters. -/
theorem MicroOutcome.afterPins {α : Type} {r : Except PinFault α} {k : α → Ebc}
    (hf : ∀ f, r = .error f → f.cause.isHardwareFault = true) (hk : ∀ a, r = .ok a → MicroOutcome e (k a)) :
    MicroOutcome e (e.afterPins r k) := by
  cases r with
  | ok a => exact hk a rfl
  | error f => exact .faults f.cause (pinField f.pin) (hf f rfl)

theorem MicroOutcome.cfg {m : PinMask} {md : Mode} {b : Bool} {k : Pins → Ebc}
    (hm : e.accessed = m ∧ e.samples = false)
    (hk : ∀ p, e.WritesAccessed p → MicroOutcome e (k p)) :
    MicroOutcome e (e.afterPins (cfgPins m md b x.portErr e.pincfg) k) :=
  .afterPins (fun _ => cfgPins_faults) fun p hp =>
    hk p fun _ hj => ⟨hm.1 ▸ cfgPins_writes hp hj, hm.2⟩

theorem MicroOutcome.set {m v : PinMask} {k : Pins → Ebc}
    (hm : e.accessed = m ∧ e.samples = false)
    (hk : ∀ p, e.WritesAccessed p → MicroOutcome e (k p)) :
    MicroOutcome e (e.afterPins (setPins m v x.portErr e.pincfg) k) :=
  .afterPins (fun _ => setPins_faults) fun p hp =>
    hk p fun _ hj => ⟨hm.1 ▸ setPins_writes hp hj, hm.2⟩

theorem MicroOutcome.get {m : PinMask} {k : PinMask → Ebc} (hk : ∀ r, MicroOutcome e (k r)) :
    MicroOutcome e (e.afterPins (getPins m x.portErr x.sample e.pincfg) k) :=
  .afterPins (fun _ => getPins_faults) fun r _ => hk r

/-- A delay state counts, or acts where the count is 1 (spec/42_bus_transfer.md R140). -/
theorem MicroOutcome.delay {par : Params} {act : Ebc → Ebc}
    (hs : e.seq = .wSettle ∨ e.seq = .wPulse ∨ e.seq = .wRecover ∨ e.seq = .rAccess)
    (hact : e.cnt = 1 → MicroOutcome e (act e)) : MicroOutcome e (delayState par act e) := by
  unfold delayState
  split
  · exact hact ‹_›
  · exact .goesOn e.seq { cnt := fun _ => by tauto }

/-- P_EXEC: each pin command is its primitive and completion (spec/40_gpio.md R105 to R107). -/
theorem pExec_outcome (hs : e.seq = .pExec) (h : pExec x e = some e') : MicroOutcome e e' := by
  unfold pExec at h
  split at h
  case h_1 hd =>
    obtain rfl := Option.some.inj h
    exact .cfg (by simp [Ebc.accessed, Ebc.samples, hs, hd]) fun _ hp => .completes _ { pins := hp }
  case h_2 hd =>
    obtain rfl := Option.some.inj h
    exact .set (by simp [Ebc.accessed, Ebc.samples, hs, hd]) fun _ hp => .completes _ { pins := hp }
  case h_3 =>
    obtain rfl := Option.some.inj h
    exact .get fun _ => .completes _ {}
  case h_4 => cases h

/-- All that X_CE can go on with (spec/41_bus_phase.md R123, R124). -/
theorem xCeNext_cases (h : xCeNext e = some e') : e' = e.complete 0 ∨ ∃ q, e' = { e with seq := q } := by
  unfold xCeNext at h
  split_ifs at h <;> cases h
  · exact .inl rfl
  · exact .inr ⟨_, rfl⟩
  · exact .inr ⟨_, rfl⟩

/-- X_CE: CE̅ set High and `PHASE` cleared on the way on, or a fault. -/
theorem xCe_outcome (hs : e.seq = .xCe) (h : xCe x e = some e') : MicroOutcome e e' := by
  unfold xCe at h
  split at h
  case h_1 p hp =>
    have hpins : e.WritesAccessed p :=
      fun _ hj => ⟨by simpa [Ebc.accessed, hs] using setPins_writes hp hj, by simp [Ebc.samples, hs]⟩
    rcases xCeNext_cases h with rfl | ⟨q, rfl⟩
    · exact .completes 0 { pins := hpins, phase := fun _ => by simp [hs] }
    · exact .goesOn q { pins := hpins, phase := fun _ => by simp [hs] }
  case h_2 f hf =>
    obtain rfl := Option.some.inj h
    exact .faults f.cause (pinField f.pin) (setPins_faults hf)

/-- All that a micro-state can do on its edge. -/
theorem microOp_outcome (hne : e.seq ≠ .ready) (h : microOp x e = some e') : MicroOutcome e e' := by
  cases hs : e.seq <;> simp only [microOp, hs, Option.some.injEq] at h
  case ready => exact absurd hs hne
  case pExec => exact pExec_outcome hs h
  case xCe => exact xCe_outcome hs h
  all_goals subst h
  case xOe | wAddr => exact .set (by simp [Ebc.accessed, Ebc.samples, hs]) fun _ hp => .goesOn _ { pins := hp }
  case ewCtl | ewAddr | ewData | erData | erCtl | erAddr | erCe =>
    exact .cfg (by simp [Ebc.accessed, Ebc.samples, hs]) fun _ hp => .goesOn _ { pins := hp }
  case ewCe | erOe =>
    exact .cfg (by simp [Ebc.accessed, Ebc.samples, hs]) fun _ hp =>
      .completes _ { pins := hp, phase := fun _ => by simp [hs] }
  case wData | rAddr =>
    exact .set (by simp [Ebc.accessed, Ebc.samples, hs]) fun _ hp =>
      .goesOn _ { pins := hp, cnt := fun _ => by simp [hs] }
  case wSettle | wPulse =>
    exact .delay (by simp [hs]) fun h1 => .set (by simp [Ebc.accessed, Ebc.samples, hs, h1]) fun _ hp =>
      .goesOn _ { pins := hp, cnt := fun _ => by simp [hs] }
  case wRecover => exact .delay (by simp [hs]) fun _ => .completes _ { cnt := fun _ => by simp [hs] }
  case rAccess => exact .delay (by simp [hs]) fun _ => .goesOn _ { cnt := fun _ => by simp [hs] }
  case rSample => exact .get fun _ => .completes _ { rdataR := fun _ => hs }
  case tCtl => exact .deasserts hs
  case tRel => exact .releases hs

end

/-! ## What an acceptance can do -/

/-- All that the acceptance of word `w` can do. -/
inductive AcceptOutcome (w : Word) (e : Ebc) : Ebc → Prop
  /-- The command is over at once, answered `st` with byte `d`. -/
  | answers (st : Status) (d : Byte) : AcceptOutcome w e { (e.latch w).respond st d with seq := .ready }
  /-- The acceptance takes a HardwareFault. -/
  | faults (cause : Status) (q : BitVec 5) (h : cause.isHardwareFault = true) :
    AcceptOutcome w e ((e.latch w).raiseFault cause q)
  /-- The command starts in micro-state `q`. -/
  | starts (q : Seq) : AcceptOutcome w e { e.latch w with seq := q }
  /-- A WRB starts. -/
  | startsWrb {a d : Byte} (h : decode w = .ok (.wrb a d)) :
    AcceptOutcome w e { e.latch w with addrR := a, wdataR := d, seq := .wAddr }
  /-- An RDB starts. -/
  | startsRdb {a : Byte} (h : decode w = .ok (.rdb a)) :
    AcceptOutcome w e { e.latch w with addrR := a, seq := .rAddr }

section
variable {w : Word} {e : Ebc}

/-- The first checks answer ILLEGAL or REJECTED, or let the command go on (spec/30_encoding.md R90). -/
theorem AcceptOutcome.passChecks {isLegal : Bool} {go : Ebc → Ebc} (h : AcceptOutcome w e (go (e.latch w))) :
    AcceptOutcome w e ((e.latch w).passChecks isLegal go) := by
  rcases Ebc.passChecks_cases (e := e.latch w) isLegal go with ⟨_, hc⟩ | ⟨_, _, hc⟩ | ⟨_, _, hc⟩ <;> rw [hc]
  · exact .answers .illegal 0
  · exact .answers .rejected 0
  · exact h

theorem AcceptOutcome.toPinExec : AcceptOutcome w e (e.latch w).toPinExec := by
  rcases Ebc.toPinExec_cases (e := e.latch w) with ⟨_, hc⟩ | ⟨_, hc⟩ <;> rw [hc]
  · exact .starts .pExec
  · exact .faults .hwfOwnership noPin (by simp)

theorem AcceptOutcome.toPhaseChange {fromIdle : Ebc → Ebc} (h : AcceptOutcome w e (fromIdle (e.latch w))) :
    AcceptOutcome w e ((e.latch w).toPhaseChange fromIdle) := by
  rcases Ebc.toPhaseChange_cases (e := e.latch w) fromIdle with ⟨_, hc⟩ | ⟨_, hc⟩ <;> rw [hc]
  · exact h
  · exact .starts .xOe

/-- All that the acceptance of a command can do. -/
theorem acceptInstr_outcome {i : Instr} (hd : decode w = .ok i) : AcceptOutcome w e (acceptInstr i (e.latch w)) := by
  cases i with
  | pcfg | pset | pget =>
    simp only [acceptInstr, acceptPcfg, acceptPset, acceptPget]
    exact .passChecks .toPinExec
  | prel => exact .starts .tCtl
  | entw =>
    rw [acceptInstr, acceptEntw]
    exact .passChecks (.toPhaseChange (.starts .ewCtl))
  | entr =>
    rw [acceptInstr, acceptEntr]
    exact .passChecks (.toPhaseChange (.starts .erData))
  | exit =>
    rw [acceptInstr, acceptExit]
    exact .passChecks (.toPhaseChange (.answers .ok 0))
  | wrb a d =>
    rw [acceptInstr, acceptWrb]
    refine .passChecks ?_
    split
    · exact .startsWrb hd
    · exact .faults .hwfPhase noPin (by simp)
  | rdb a =>
    rw [acceptInstr, acceptRdb]
    refine .passChecks ?_
    split
    · exact .startsRdb hd
    · exact .faults .hwfPhase noPin (by simp)

/-- All that an acceptance can do. -/
theorem accept_outcome (w : Word) (e : Ebc) : AcceptOutcome w e (accept w e) := by
  cases hd : decode w with
  | ok i => exact accept_ok (e := e) hd ▸ acceptInstr_outcome hd
  | error r => exact accept_error (e := e) hd ▸ .answers .illegal 0

end

/-! ## The rows of R36 -/

/-- The registers go from `e` to `e'` at the edge that closes the present cycle of `s`, each within its row of R36; a
row that is left out belongs to a register that keeps its value. -/
structure WriterRows (s : State) (e e' : Ebc) : Prop where
  pins : ∀ k, pinAt e'.pincfg k ≠ pinAt e.pincfg k →
    (inMask e.accessed k = true ∧ e.samples = false) ∨ (e.seq = .tCtl ∧ inMask maskCtrl k = true) ∨
      e.seq = .tRel := by simp
  phase : e'.phase ≠ e.phase → e.seq = .ewCe ∨ e.seq = .erOe ∨ e.seq = .xCe ∨ e.seq = .tRel := by simp
  record : e'.fault ≠ e.fault ∨ e'.faultCause ≠ e.faultCause ∨ e'.faultPin ≠ e.faultPin ∨ e'.faultOp ≠ e.faultOp →
    e.seq = .tRel ∨ (e'.rspValid = true ∧ e'.rspStatus.isHardwareFault = true) := by simp
  cnt : e'.cnt ≠ e.cnt →
    e.seq = .wData ∨ e.seq = .wSettle ∨ e.seq = .wPulse ∨ e.seq = .wRecover ∨ e.seq = .rAddr ∨ e.seq = .rAccess ∨
      (s.input.abort = true ∧ e.abortLatch = false) ∨
      (e'.rspValid = true ∧ e'.rspStatus.isHardwareFault = true) := by simp
  cmd : e'.cmd ≠ e.cmd → s.cmdReady = true ∧ s.input.cmdValid = true ∧ e'.cmd = s.input.cmdWord := by simp
  abortLatch : e'.abortLatch ≠ e.abortLatch → e'.abortLatch = s.input.abort
  aborting : e'.aborting ≠ e.aborting → (s.input.abort = true ∧ e.abortLatch = false) ∨ e.seq = .tRel := by simp
  addrR : e'.addrR ≠ e.addrR → s.cmdReady = true ∧ s.input.cmdValid = true ∧
    ((∃ d, decode s.input.cmdWord = .ok (.wrb e'.addrR d)) ∨
      decode s.input.cmdWord = .ok (.rdb e'.addrR)) := by simp
  wdataR : e'.wdataR ≠ e.wdataR → s.cmdReady = true ∧ s.input.cmdValid = true ∧
    ∃ a, decode s.input.cmdWord = .ok (.wrb a e'.wdataR) := by simp
  rdataR : e'.rdataR ≠ e.rdataR → e.seq = .rSample := by simp
  response : e'.rspStatus ≠ e.rspStatus ∨ e'.rspData ≠ e.rspData → e'.rspValid = true := by simp

section
variable {s : State} {e e' : Ebc}

/-- What the opening of an edge leaves of the latch is the latch or the level of `abort`. -/
theorem openEdge_abortLatch_level (b : Bool) (h : (e.openEdge b).abortLatch ≠ e.abortLatch) :
    (e.openEdge b).abortLatch = b := by
  cases b <;> simp_all

@[simp] theorem openEdge_accessed (b : Bool) : (e.openEdge b).accessed = e.accessed := rfl
@[simp] theorem openEdge_samples (b : Bool) : (e.openEdge b).samples = e.samples := rfl

/-- T_CTL changes control lines only (spec/40_gpio.md R108). -/
theorem inMask_ctrl_of_deassertControl_ne {k : Pin} {c : PinCfg} (h : deassertControl k c ≠ c) :
    inMask maskCtrl k = true := by
  by_contra hk
  exact h (by simp [deassertControl, hk])

theorem writerRows_abortEntry (ha : s.input.abort = true) (hl : e.abortLatch = false) :
    WriterRows s e (e.openEdge true).abortEntry where
  cnt _ := by simp [ha, hl]
  abortLatch _ := ha.symm
  aborting _ := .inl ⟨ha, hl⟩

theorem writerRows_openEdge : WriterRows s e (e.openEdge s.input.abort) where
  abortLatch := openEdge_abortLatch_level _

/-- Micro-states, each kind of outcome against the rows. -/
theorem writerRows_micro (h : MicroOutcome (e.openEdge s.input.abort) e') : WriterRows s e e' := by
  cases h with
  | goesOn _ ha | completes _ ha => exact {
      pins := fun k hk => .inl (ha.pins k hk)
      phase := fun hp => by have := ha.phase hp; tauto
      cnt := fun hn => by have := ha.cnt hn; tauto
      rdataR := ha.rdataR
      abortLatch := openEdge_abortLatch_level _ }
  | faults cause q hc => exact {
      record := fun _ => .inr ⟨rfl, hc⟩
      cnt := fun _ => by simp [hc]
      abortLatch := openEdge_abortLatch_level _ }
  | deasserts hs => exact {
      pins := fun k hk => .inr (.inl ⟨hs, inMask_ctrl_of_deassertControl_ne (by simpa using hk)⟩)
      abortLatch := by simpa using openEdge_abortLatch_level s.input.abort }
  | releases hs => exact {
      pins := fun _ _ => .inr (.inr hs)
      phase := fun _ => .inr (.inr (.inr hs))
      record := fun _ => .inl hs
      aborting := fun _ => .inr hs
      abortLatch := openEdge_abortLatch_level _ }

/-- Acceptance, which comes with `cmd_ready` and so with `abort = 0`. -/
theorem writerRows_accept (hr : s.cmdReady = true) (hv : s.input.cmdValid = true)
    (h : AcceptOutcome s.input.cmdWord (e.openEdge false) e') : WriterRows s e e' := by
  have ha : s.input.abort = false := ((cmdReady_iff s).mp hr).2.1
  have hl : (e.openEdge false).abortLatch ≠ e.abortLatch → (e.openEdge false).abortLatch = s.input.abort :=
    fun h => (openEdge_abortLatch_level false h).trans ha.symm
  cases h with
  | answers st d | starts q => exact { cmd := fun _ => ⟨hr, hv, rfl⟩, abortLatch := hl }
  | faults cause q hc => exact {
      record := fun _ => .inr ⟨rfl, hc⟩
      cnt := fun _ => by simp [hc]
      cmd := fun _ => ⟨hr, hv, rfl⟩
      abortLatch := hl }
  | startsWrb hd => exact {
      cmd := fun _ => ⟨hr, hv, rfl⟩
      addrR := fun _ => ⟨hr, hv, .inl ⟨_, hd⟩⟩
      wdataR := fun _ => ⟨hr, hv, _, hd⟩
      abortLatch := hl }
  | startsRdb hd => exact {
      cmd := fun _ => ⟨hr, hv, rfl⟩
      addrR := fun _ => ⟨hr, hv, .inr hd⟩
      abortLatch := hl }

/-- Every edge with `rst_n = 1` keeps every register within its row. -/
theorem writerRows_ebcEdge (hr : s.input.rstN = true) (h : ebcEdge s.ctx s.input s.atEdge = some e') :
    WriterRows s s.atEdge e' := by
  rcases ebcEdge_some h with ⟨ha, hl, rfl⟩ | ⟨hs, ha, hv, rfl⟩ | ⟨_, _, _, rfl⟩ | ⟨hs, _, hm⟩
  · exact writerRows_abortEntry ha hl
  · exact writerRows_accept ((cmdReady_iff s).mpr ⟨hs, ha, hr⟩) hv (accept_outcome _ _)
  · exact writerRows_openEdge
  · exact writerRows_micro (microOp_outcome hs hm)

end

/-- Settles O53: each way an edge can go, the abort entry, an acceptance, a waiting READY or a micro-state, keeps every
register within its row of R36. -/
theorem registerWriters : Obligations.RegisterWriters := by
  rintro s t _ h rfl
  rcases edge_next h with ⟨hr, rfl⟩ | ⟨hr, e', he, rfl⟩
  · exact ⟨fun _ => rfl, fun hr' => absurd (hr.symm.trans hr') Bool.false_ne_true⟩
  · obtain ⟨hpins, hphase, hrecord, hcnt, hcmd, hlatch, haborting, haddr, hwdata, hrdata, hrsp⟩ :=
      writerRows_ebcEdge hr he
    exact ⟨fun hr' => absurd (hr'.symm.trans hr) Bool.false_ne_true, fun _ =>
      ⟨hpins, hphase, hrecord, hcnt, hcmd, hlatch, haborting, haddr, hwdata, hrdata, hrsp⟩⟩

end Sys2Proof.Machine
end

section
/-! Statements of the device alone (spec/20_memory.md R55 to R62): what a driven control line excludes, what a device
read puts on the data nets, when BUS_CONTENTION is set, and which edges change the EEPROM array. -/

namespace Sys2Proof.Machine

/-! ## What the pads exclude (R60) -/

section
variable {s : State}

theorem State.pulseOn_of_highWE (h : pinAt s.ebc.pincfg pinWE = .output .high) : s.pulseOn = false := by
  simp [State.pulseOn, State.seenLow_of_high h]

theorem State.pulseOn_of_highCE (h : pinAt s.ebc.pincfg pinCE = .output .high) : s.pulseOn = false := by
  simp [State.pulseOn, State.seenLow_of_high h]

theorem State.devDrives_of_highCE (h : pinAt s.ebc.pincfg pinCE = .output .high) : s.devDrives = false := by
  simp [State.devDrives, State.seenLow_of_high h]

theorem State.devDrives_of_highOE (h : pinAt s.ebc.pincfg pinOE = .output .high) : s.devDrives = false := by
  simp [State.devDrives, State.seenLow_of_high h]

end

/-- Settles O50: a line driven High is seen High, and a pulse needs WE̅ and CE̅ seen Low, a drive OE̅ and CE̅. -/
theorem drivenHighExcludes : Obligations.DrivenHighExcludes := fun _ =>
  ⟨State.pulseOn_of_highWE, fun h => ⟨State.pulseOn_of_highCE h, State.devDrives_of_highCE h⟩,
    State.devDrives_of_highOE⟩

/-! ## Contention (R62) -/

/-- Every edge, reset or not, lets the device step and leaves some registers. -/
theorem edge_advances {s t : State} (h : edge s = .next t) : ∃ e, t = s.advance e := by
  rcases edge_next h with ⟨_, rfl⟩ | ⟨_, e, _, rfl⟩
  · exact ⟨_, rfl⟩
  · exact ⟨e, rfl⟩

theorem State.contends_of_driven {s : State} {i : Fin 8} (hd : s.devDrives = true)
    (hi : (pinAt s.ebc.pincfg (pinIO i)).padOe = true) : s.contends = true := by
  simpa [State.contends, hd] using ⟨i, hi⟩

/-- Settles O51: the device's step only ever adds to BUS_CONTENTION, and every edge takes the device's step. -/
theorem contentionIsSticky : Obligations.ContentionIsSticky := by
  intro s t h
  obtain ⟨e, rfl⟩ := edge_advances h
  simp only [State.advance_dev, State.devStep_contention, Bool.or_eq_true]
  exact ⟨.inl, fun i hd hi => .inr (State.contends_of_driven hd hi)⟩

/-! ## A device read (R57) -/

section
variable {s : State} {a : Byte}

/-- With no pulse, no write cycle and both access times met, the device puts out the addressed cell. -/
theorem State.devOut_cell (hr : s.atRest) (ha : s.devAddr = some a) (hA : s.par.dAcc ≤ s.ageANow)
    (hS : s.par.dAcc ≤ s.ageSNow) : s.devOut = s.cell a := by
  simp [State.devOut, ha, hr.1, hr.2, hA, hS]

/-- A data net that only the device drives carries the device's bit (R55). -/
theorem State.line_of_devDrives {i : Fin 8} (hd : s.devDrives = true)
    (hi : (pinAt s.ebc.pincfg (pinIO i)).padOe = false) :
    s.line (pinIO i) = if s.devOut.getLsbD i then .high else .low := by
  have hnum : (pinIO i).val - 8 = i.val := by simp [pinIO]
  simp [State.line, hd, hi, hnum]

end

/-- Settles O48: under the conditions of R57 the device drives, and what it drives is the addressed cell. -/
theorem deviceDrivesTheCell : Obligations.DeviceDrivesTheCell := by
  intro s a i hCE hOE hWE hr ha hA hS hi
  have hd : s.devDrives = true := by simp [State.devDrives, hCE, hOE, hWE]
  rw [State.line_of_devDrives hd hi, State.devOut_cell hr ha hA hS]

/-! ## Which edges change the array (R58) -/

section
variable {s : State} {d : Device} {mem0 : Vector Byte 256} {b : Byte}

/-- A commit changes only a cell that the latched address is, unless the address was lost. -/
theorem Device.commitMem_changes {n : Nat} (hm : Memory.wf mem0 d.mem)
    (h : memRead mem0 (d.commitMem mem0 n) b ≠ memRead mem0 d.mem b) : d.wcAddr = none ∨ d.wcAddr = some b := by
  cases ha : d.wcAddr with
  | none => exact .inl rfl
  | some a =>
    refine .inr (congrArg some ?_)
    by_contra hne
    exact h (d.read_commitMem_other n hm ha (Ne.symm hne))

theorem State.wf_devWriteCycle (hm : Memory.wf s.par.mem0 s.dev.mem) :
    Memory.wf s.par.mem0 s.devWriteCycle.mem := by
  rw [State.devWriteCycle_mem]
  split
  · exact Device.wf_commitMem _ hm
  · exact hm

/-- What the end of a pulse latches for the write cycle (R58(d)). -/
def State.pulseLatched (s : State) (d : Device) : Device :=
  { d with
    inPulse := false
    wcAddr := s.dev.pAddr
    wcData := s.dev.pData
    wcOk := !s.dev.pBad && decide (s.par.dWp ≤ s.dev.pLen) && s.dev.pData.isSome }

theorem State.devPulseEnd_eq (s : State) (d : Device) :
    s.devPulseEnd d =
      if (s.par.dWc : Nat) = 1 then (s.pulseLatched d).commit s.par.mem0 s.tick
      else { s.pulseLatched d with wcLeft := (s.par.dWc : Nat) - 1 } := rfl

/-- All that the pulse's part of an edge can do to the array: nothing, or the commit of a cycle one edge long. -/
theorem State.devPulse_mem_cases (s : State) (d : Device) :
    (s.devPulse d).mem = d.mem ∨
      (s.dev.inPulse = true ∧ s.pulseOn = false ∧ (s.par.dWc : Nat) = 1 ∧
        (s.devPulse d).mem = (s.pulseLatched d).commitMem s.par.mem0 s.tick) := by
  cases hin : s.dev.inPulse <;> cases hon : s.pulseOn
  · exact .inl (by rw [State.devPulse_none hin hon])
  · rw [State.devPulse_start hin hon, State.devPulseStart]
    exact .inl (by split <;> rfl)
  · rw [State.devPulse_end hin hon, State.devPulseEnd_eq]
    split
    · exact .inr ⟨rfl, rfl, ‹_›, rfl⟩
    · exact .inl rfl
  · exact .inl (by rw [State.devPulse_body hin hon]; rfl)

/-- Every edge keeps the array canonical. -/
theorem State.wf_devStep (hm : Memory.wf s.par.mem0 s.dev.mem) : Memory.wf s.par.mem0 s.devStep.mem := by
  rw [State.devStep_mem]
  rcases s.devPulse_mem_cases s.devWriteCycle with h | ⟨_, _, _, h⟩ <;> rw [h]
  · exact s.wf_devWriteCycle hm
  · exact Device.wf_commitMem _ (s.wf_devWriteCycle hm)

/-- A cell that changes is written by the end of a write cycle or by the end of a pulse. -/
theorem State.devStep_changes (hm : Memory.wf s.par.mem0 s.dev.mem)
    (h : memRead s.par.mem0 s.devStep.mem b ≠ s.cell b) :
    (s.dev.wcLeft = 1 ∧ (s.dev.wcAddr = none ∨ s.dev.wcAddr = some b)) ∨
      (s.dev.inPulse = true ∧ s.pulseOn = false ∧ (s.par.dWc : Nat) = 1 ∧
        (s.dev.pAddr = none ∨ s.dev.pAddr = some b)) := by
  by_cases hcycle : memRead s.par.mem0 s.devWriteCycle.mem b = s.cell b
  · rw [State.devStep_mem, ← hcycle] at h
    rcases s.devPulse_mem_cases s.devWriteCycle with hp | ⟨hin, hon, hone, hp⟩ <;> rw [hp] at h
    · exact absurd rfl h
    · exact .inr ⟨hin, hon, hone, 
        Device.commitMem_changes (d := s.pulseLatched s.devWriteCycle) (s.wf_devWriteCycle hm) h⟩
  · rw [State.devWriteCycle_mem] at hcycle
    split at hcycle
    · exact .inl ⟨‹_›, Device.commitMem_changes hm hcycle⟩
    · exact absurd rfl hcycle

end

/-- Settles O49: the write cycle's end and the pulse's end are the two places that commit, and the invariant's canonical
array is all that this needs. -/
theorem onlyACommitChangesCells : Obligations.OnlyACommitChangesCells := fun _ _ hinv =>
  State.devStep_changes hinv.dev.memory

end Sys2Proof.Machine
end

section
/-! However a WRB ends, only its cell can have changed (spec/20_memory.md R58(e), 70_reset_and_hazards.md R201). Along
the run every write pulse finds the operand on the address lines, because WE̅ is High until they carry it and nothing
moves them before WE̅ is High again; so whatever the device commits, it commits to that cell. A fall of `rst_n` floats
the lines, but ends the run before the edge that the device could see them at. -/

namespace Sys2Proof.Machine

/-! ## The address that the device sees (R56) -/

/-- The address lines are driven to address `a`. -/
abbrev AddrLines (a : Byte) (p : Pins) : Prop := ∀ i : Fin 8, pinAt p (pinA i) = .output (Level.ofBit (a.getLsbD i))

@[simp] theorem passiveNet_output (b : Bool) :
    passiveNet (.output (Level.ofBit b)) = if b then .high else .low := by
  cases b <;> rfl

/-- Eight nets that carry the bits of a byte are read as that byte. -/
theorem byteOfNets_eq {net : Fin 8 → NetLevel} {a : Byte}
    (h : ∀ i : Fin 8, net i = if a.getLsbD i then .high else .low) : byteOfNets net = some a := by
  have hfloat : ¬ ∃ i, net i = .float := by
    rintro ⟨i, hi⟩
    rw [h i] at hi
    split at hi <;> cases hi
  have hbyte : BitVec.ofFnLE (fun i => net i == .high) = a := by
    ext i hi
    have hbit := h ⟨i, hi⟩
    cases ha : a.getLsbD i <;> simp_all
  simp only [byteOfNets, hbyte]
  simpa using hfloat

theorem State.devAddr_of_lines {s : State} {a : Byte} (h : AddrLines a s.ebc.pincfg) : s.devAddr = some a :=
  byteOfNets_eq fun i => by rw [State.pin_def, h i, passiveNet_output]

/-! ## Runs to READY -/

/-- Where an edge finds a command in flight `rst_n` has not fallen, for the reset values are READY. -/
theorem State.atEdge_inFlight {s : State} (h : s.atEdge.seq ≠ .ready) : s.atEdge = s.ebc := by
  rcases s.atEdge_cases with ⟨_, he⟩ | ⟨_, he⟩
  · exact he
  · exact absurd (by rw [he]; rfl) h

/-- What every edge keeps that finds a command in flight, a run to READY keeps. -/
theorem runToReady_keeps_inFlight {P : State → Prop}
    (hP : ∀ s t, P s → s.atEdge.seq ≠ .ready → edge s = .next t → P t) {n : Nat} {s t : State} (hs : P s)
    (h : runToReady n s = .next t) : P t := by
  induction n generalizing s with
  | zero =>
    obtain rfl : s = t := by simpa [runToReady] using h
    exact hs
  | succ n ih =>
    by_cases hr : s.atEdge.seq = .ready
    · obtain rfl : s = t := by simpa [runToReady, hr] using h
      exact hs
    · cases he : edge s with
      | next u => exact ih (hP s u hs hr he) (by rwa [runToReady_succ hr he] at h)
      | fault f => simp [runToReady, hr, he] at h
      | refused r => simp [runToReady, hr, he] at h

/-- All that an edge can do that finds a command in flight: the abort entry, or the micro-state's action. -/
theorem edge_inFlight {s t : State} (hs : s.atEdge.seq ≠ .ready) (h : edge s = .next t) :
    t = s.advance (s.ebc.openEdge true).abortEntry ∨
      ∃ b e, microOp s.ctx (s.ebc.openEdge b) = some e ∧ t = s.advance e := by
  have hebc := State.atEdge_inFlight hs
  have hr : s.input.rstN = true := by
    rcases s.atEdge_cases with ⟨hr, _⟩ | ⟨_, he⟩
    · exact rstN_of_high hr
    · exact absurd (by rw [he]; rfl) hs
  rcases edge_next h with ⟨hr', _⟩ | ⟨_, e, he, rfl⟩
  · exact absurd (hr'.symm.trans hr) Bool.false_ne_true
  · rcases ebcEdge_some he with ⟨_, _, rfl⟩ | ⟨hs', _⟩ | ⟨hs', _⟩ | ⟨_, _, hm⟩
    · exact .inl (by rw [hebc])
    · exact absurd hs' hs
    · exact absurd hs' hs
    · exact .inr ⟨_, e, by rwa [hebc] at hm, rfl⟩

/-! ## The pads of a WRB in flight -/

/-- A WRB to address `a` in flight, its teardown included: WE̅ stays High until the address lines carry `a`, and they
carry it until WE̅ is High again. -/
def WrbInFlight (a : Byte) (e : Ebc) : Prop :=
  match e.seq with
  | .ready => True
  | .wAddr => e.addrR = a ∧ pinAt e.pincfg pinWE = .output .high
  | .wData | .wSettle | .wPulse | .wRecover => AddrLines a e.pincfg
  | .tCtl | .tRel => pinAt e.pincfg pinWE = .output .high ∨ AddrLines a e.pincfg
  | _ => False

section
variable {a : Byte} {e e' : Ebc} {x : EdgeCtx}

theorem WrbInFlight.of_ready (h : e.seq = .ready) : WrbInFlight a e := by
  simp [WrbInFlight, h]

/-- In every micro-state of it, WE̅ is High or the address is on its lines. -/
theorem WrbInFlight.pads (h : WrbInFlight a e) (hs : e.seq ≠ .ready) :
    pinAt e.pincfg pinWE = .output .high ∨ AddrLines a e.pincfg := by
  cases hseq : e.seq <;> simp only [WrbInFlight, hseq] at h
  case ready => exact absurd hseq hs
  case wAddr => exact .inl h.2
  case wData | wSettle | wPulse | wRecover => exact .inr h
  case tCtl | tRel => exact h

/-- The abort entry moves no pin. -/
theorem WrbInFlight.abortEntry (h : WrbInFlight a e) (hs : e.seq ≠ .ready) :
    WrbInFlight a (e.openEdge true).abortEntry :=
  h.pads hs

/-- `set` and what follows it, where a success leaves a WRB in flight: a fault ends it. -/
theorem WrbInFlight.set {m v : PinMask} {k : Pins → Ebc} (hk : WrbInFlight a (k (drivePins m v e.pincfg))) :
    WrbInFlight a (e.afterPins (setPins m v x.portErr e.pincfg) k) := by
  rcases afterSet_cases m v k with ⟨_, h⟩ | ⟨_, _, _, h⟩ | ⟨_, _, _, h⟩ <;> rw [h]
  · exact hk
  · exact .of_ready rfl
  · exact .of_ready rfl

/-- Pins other than the address lines leave the address on them. -/
theorem AddrLines.drivePins {p : Pins} {m v : PinMask} (h : AddrLines a p)
    (hm : ∀ i, inMask m (pinA i) = false) : AddrLines a (drivePins m v p) := by
  intro i
  rw [drivePins_pin, hm i]
  exact h i

/-- T_CTL leaves the address on its lines and WE̅ High. -/
theorem deassertControls_keeps {p : Pins} (h : pinAt p pinWE = .output .high ∨ AddrLines a p) :
    pinAt (deassertControls p) pinWE = .output .high ∨ AddrLines a (deassertControls p) := by
  refine h.imp (fun hWE => ?_) (fun hA i => ?_)
  · simp [deassertControl, hWE]
  · simp [deassertControl, hA i]

/-- A delay state that goes on counting moves no pin. -/
theorem WrbInFlight.delay {p : Params} {act : Ebc → Ebc} (h : WrbInFlight a e) (hact : WrbInFlight a (act e)) :
    WrbInFlight a (delayState p act e) := by
  unfold delayState
  split
  · exact hact
  · exact h

/-- Every micro-state keeps it. -/
theorem WrbInFlight.microOp (h : WrbInFlight a e) (hm : microOp x e = some e') : WrbInFlight a e' := by
  cases hs : e.seq <;> have hpins := h <;> simp only [WrbInFlight, hs] at hpins <;>
    simp only [Machine.microOp, hs, Option.some.injEq] at hm <;> subst hm
  case ready => exact h
  case wAddr => exact .set fun i => by simp [hpins.1]
  case wData => exact .set (hpins.drivePins (by simp))
  case wSettle | wPulse => exact .delay h (.set (hpins.drivePins (by simp)))
  case wRecover => exact .delay h (.of_ready rfl)
  case tCtl => exact deassertControls_keeps hpins
  case tRel => exact .of_ready rfl

end

/-! ## The device beside it -/

/-- From `s` to `u` only cell `a` can have changed, and only it can change in what is under way: the pulse and the write
cycle are at `a`. -/
structure OnlyCell (s : State) (a : Byte) (u : State) : Prop where
  par : u.par = s.par
  memory : Memory.wf u.par.mem0 u.dev.mem
  pulse : u.dev.inPulse = true → u.dev.pAddr = some a
  cycle : u.dev.wcLeft ≠ 0 → u.dev.wcAddr = some a
  others : ∀ b, b ≠ a → u.cell b = s.cell b

section
variable {s u : State} {a : Byte}

/-- A pulse that the address lines stand still in keeps the address it latched (R58(b), (c)). -/
theorem State.devStep_pAddr_of (hon : s.pulseOn = true → s.devAddr = some a)
    (hp : s.dev.inPulse = true → s.dev.pAddr = some a) (h : s.devStep.inPulse = true) :
    s.devStep.pAddr = some a := by
  rw [State.devStep_inPulse] at h
  rw [State.devStep_pAddr]
  cases hin : s.dev.inPulse <;> cases hpulse : s.pulseOn
  · simp [State.devPulse_none hin hpulse, hin] at h
  · rw [State.devPulse_start hin hpulse, State.devPulseStart] at h ⊢
    split at h
    · simp [*]
    · simp [hin] at h
  · rw [State.devPulse_end hin hpulse, State.devPulseEnd_eq] at h
    split at h <;> simp [State.pulseLatched] at h
  · simp [State.devPulse_body hin hpulse, State.devPulseBody, hp hin, hon hpulse]

/-- All that the pulse's part of an edge can do to the write cycle: nothing, or start one at the pulse's address. -/
theorem State.devPulse_cycle_cases (s : State) (d : Device) :
    ((s.devPulse d).wcLeft = d.wcLeft ∧ (s.devPulse d).wcAddr = d.wcAddr) ∨
      (s.dev.inPulse = true ∧ (s.devPulse d).wcAddr = s.dev.pAddr) := by
  cases hin : s.dev.inPulse <;> cases hon : s.pulseOn
  · exact .inl (by simp [State.devPulse_none hin hon])
  · rw [State.devPulse_start hin hon, State.devPulseStart]
    exact .inl (by split <;> simp)
  · rw [State.devPulse_end hin hon, State.devPulseEnd_eq]
    exact .inr ⟨rfl, by split <;> rfl⟩
  · exact .inl (by simp [State.devPulse_body hin hon, State.devPulseBody])

/-- A write cycle is at the address of the one before this edge or of the pulse that ends there (R58(a), (d)). -/
theorem State.devStep_wcAddr_of (hp : s.dev.inPulse = true → s.dev.pAddr = some a)
    (hc : s.dev.wcLeft ≠ 0 → s.dev.wcAddr = some a) (h : s.devStep.wcLeft ≠ 0) :
    s.devStep.wcAddr = some a := by
  rw [State.devStep_wcLeft] at h
  rw [State.devStep_wcAddr]
  rcases s.devPulse_cycle_cases s.devWriteCycle with ⟨hleft, haddr⟩ | ⟨hin, haddr⟩
  · rw [hleft, State.devWriteCycle_wcLeft] at h
    rw [haddr, State.devWriteCycle_wcAddr]
    exact hc (by omega)
  · rw [haddr, hp hin]

/-- A write pulse needs WE̅ seen Low, so pads that hold it High or hold the address on its lines let no pulse be
elsewhere. -/
theorem State.devAddr_of_pulse (h : pinAt s.ebc.pincfg pinWE = .output .high ∨ AddrLines a s.ebc.pincfg)
    (hon : s.pulseOn = true) : s.devAddr = some a := by
  rcases h with hWE | hA
  · exact absurd (hon.symm.trans (State.pulseOn_of_highWE hWE)) (by decide)
  · exact State.devAddr_of_lines hA

/-- The device's edge beside such pads keeps it, whatever the registers become. -/
theorem OnlyCell.advance (h : OnlyCell s a u)
    (hpads : pinAt u.ebc.pincfg pinWE = .output .high ∨ AddrLines a u.ebc.pincfg) (e : Ebc) :
    OnlyCell s a (u.advance e) where
  par := h.par
  memory := State.wf_devStep h.memory
  pulse := State.devStep_pAddr_of (State.devAddr_of_pulse hpads) h.pulse
  cycle := State.devStep_wcAddr_of h.pulse h.cycle
  others b hb := by
    refine Eq.trans ?_ (h.others b hb)
    by_contra hne
    rcases State.devStep_changes h.memory hne with ⟨hleft, haddr⟩ | ⟨hin, _, _, haddr⟩
    · simp [h.cycle (by omega), hb.symm] at haddr
    · simp [h.pulse hin, hb.symm] at haddr

/-- With the device at rest it holds at the start. -/
theorem OnlyCell.refl (hr : s.atRest) (hm : Memory.wf s.par.mem0 s.dev.mem) : OnlyCell s a s where
  par := rfl
  memory := hm
  pulse h := absurd (hr.1.symm.trans h) Bool.false_ne_true
  cycle h := absurd hr.2 h
  others _ _ := rfl

/-- Every edge that finds the command in flight keeps both the device's part and the pads' part. -/
theorem OnlyCell.edge {t : State} (h : OnlyCell s a u ∧ WrbInFlight a u.ebc) (hs : u.atEdge.seq ≠ .ready)
    (he : edge u = .next t) : OnlyCell s a t ∧ WrbInFlight a t.ebc := by
  obtain ⟨hcell, hflight⟩ := h
  have hseq : u.ebc.seq ≠ .ready := State.atEdge_inFlight hs ▸ hs
  have hpads := hflight.pads hseq
  rcases edge_inFlight hs he with rfl | ⟨_, e, hm, rfl⟩
  · exact ⟨hcell.advance hpads _, hflight.abortEntry hseq⟩
  · exact ⟨hcell.advance hpads _, WrbInFlight.microOp (e := u.ebc.openEdge _) hflight hm⟩

/-- The acceptance of a WRB starts it, or answers at once. -/
theorem wrbInFlight_accept {d : Byte} {e : Ebc} (hWE : e.phase = .writeActive → pinAt e.pincfg pinWE = .output .high) :
    WrbInFlight a (acceptWrb a d e) := by
  unfold acceptWrb
  rcases e.passChecks_cases true _ with ⟨_, hc⟩ | ⟨_, _, hc⟩ | ⟨_, _, hc⟩ <;> rw [hc]
  · exact .of_ready rfl
  · exact .of_ready rfl
  · split
    · exact ⟨rfl, hWE ‹_›⟩
    · exact .of_ready rfl

end

/-- Settles O45: the accepting edge finds the device at rest and WE̅ High; from there every edge of the run keeps the
device to the one cell and the pads to its address. -/
theorem wrbNeverTouchesAnotherCell : Obligations.WrbNeverTouchesAnotherCell := by
  intro s t a d hready _ _ ⟨_, _, hWE, _, _⟩ hrest hmem hexec
  have hcell : OnlyCell s a (acceptEdge (encode (.wrb a d)) (acceptWrb a d) s) :=
    (OnlyCell.refl hrest hmem).advance (.inl hWE) _
  have hflight : WrbInFlight a (acceptEdge (encode (.wrb a d)) (acceptWrb a d) s).ebc := by
    refine wrbInFlight_accept fun hphase => ?_
    rcases s.atEdge_cases with ⟨_, he⟩ | ⟨_, he⟩
    · simpa [he] using hWE
    · simp [he, Ebc.reset] at hphase
  rw [exec_ready hready] at hexec
  exact (runToReady_keeps_inFlight (fun _ _ => OnlyCell.edge) ⟨hcell, hflight⟩ hexec).1.others

end Sys2Proof.Machine
end

section
/-! A command with quiet inputs, edge by edge (spec/41_bus_phase.md R121 to R124, 42_bus_transfer.md R140 to R143). A
`Flight` is a run of edges with a command in flight, and says what the pads are in every cycle of it; each micro-state's
action without a port error is said once, and each sequence is a flight of them. The device appears nowhere: what it
makes of the pads is for the claims about it. -/

namespace Sys2Proof.Machine

/-! ## Flights -/

/-- `n` edges lead from `s` to `t`; each finds a command in flight, and closes a cycle in which the pads satisfy `C`. -/
inductive Flight (C : Pins → Prop) : Nat → State → State → Prop
  | here (s : State) : Flight C 0 s s
  | step {s t : State} {n : Nat} {e : Ebc} (hs : s.atEdge.seq ≠ .ready) (hC : C s.ebc.pincfg)
    (he : edge s = .next (s.advance e)) (h : Flight C n (s.advance e) t) : Flight C (n + 1) s t

section
variable {C D : Pins → Prop} {m n : Nat} {s t u : State}

theorem Flight.trans (h : Flight C m s u) (h' : Flight C n u t) : Flight C (m + n) s t := by
  induction h with
  | here => simpa using h'
  | step hs hC he _ ih => exact Nat.add_right_comm _ 1 _ ▸ .step hs hC he (ih h')

theorem Flight.mono (hCD : ∀ q, C q → D q) (h : Flight C n s t) : Flight D n s t := by
  induction h with
  | here => exact .here _
  | step hs hC he _ ih => exact .step hs (hCD _ hC) he ih

theorem Flight.anyPads (h : Flight C n s t) : Flight (fun _ => True) n s t :=
  h.mono fun _ _ => trivial

theorem Flight.took (h : Flight C n s t) : Took n s t := by
  induction h with
  | here => exact ⟨rfl, rfl, rfl⟩
  | step _ _ _ _ ih =>
    obtain ⟨hpar, hinputs, htick⟩ := ih
    exact ⟨hpar, by simpa [Nat.add_comm] using hinputs, by simp [htick]; omega⟩

theorem Flight.first (h : Flight C (n + 1) s t) : C s.ebc.pincfg := by
  cases h with
  | step _ hC => exact hC

theorem Flight.quiet (h : Flight C n s t) (hq : s.quiet) : t.quiet := by
  induction h with
  | here => exact hq
  | step _ _ _ _ ih => exact ih (quiet_advance hq _)

/-- A flight that ends at READY is the run to READY. -/
theorem Flight.runToReady (h : Flight C n s t) (ht : t.ebc.seq = .ready) {k : Nat} (hk : n ≤ k) :
    runToReady k s = .next t := by
  induction h generalizing k with
  | here => exact runToReady_ready (State.atEdge_ready ht) k
  | step hs _ he _ ih =>
    obtain ⟨k, rfl⟩ : ∃ j, k = j + 1 := ⟨k - 1, by omega⟩
    rw [runToReady_succ hs he]
    exact ih ht (by omega)

/-- What every device edge keeps under such pads, a flight keeps, counting the cycles. -/
theorem Flight.carries {Q : Nat → State → Prop} (hstep : ∀ k u e, C u.ebc.pincfg → Q k u → Q (k + 1) (u.advance e))
    (h : Flight C n s t) {k : Nat} (hs : Q k s) : Q (k + n) t := by
  induction h generalizing k with
  | here => exact hs
  | step _ hC _ _ ih => exact Nat.add_right_comm k 1 _ ▸ ih (hstep _ _ _ hC hs)

/-- The same from a flight's first edge on, which may ask something else. -/
theorem Flight.carries_from_first {Q : Nat → State → Prop} (hfirst : ∀ e, C s.ebc.pincfg → Q 1 (s.advance e))
    (hstep : ∀ k u e, C u.ebc.pincfg → Q k u → Q (k + 1) (u.advance e)) (h : Flight C n s t) (hn : 0 < n) :
    Q n t := by
  cases h with
  | here => omega
  | step _ hC _ h => exact Nat.add_comm 1 _ ▸ h.carries hstep (hfirst _ hC)

end

/-! ## Calm edges -/

/-- A command in flight with quiet inputs: its acceptance has cleared the response and no abort is latched. -/
structure State.Calm (s : State) : Prop where
  quiet : s.quiet
  rspValid : s.ebc.rspValid = false
  abortLatch : s.ebc.abortLatch = false

section
variable {C : Pins → Prop} {n : Nat} {s t u : State} {e : Ebc}

theorem State.Calm.openEdge (h : s.Calm) : s.ebc.openEdge false = s.ebc := by
  obtain ⟨tick, inputs, par, ebc, dev⟩ := s
  obtain ⟨_, hv, hl⟩ := h
  cases ebc
  simp_all [Ebc.openEdge]

theorem State.Calm.advance (h : s.Calm) (hv : e.rspValid = s.ebc.rspValid := by rfl)
    (hl : e.abortLatch = s.ebc.abortLatch := by rfl) : (s.advance e).Calm :=
  ⟨quiet_advance h.quiet e, hv.trans h.rspValid, hl.trans h.abortLatch⟩

theorem State.Calm.flight (h : s.Calm) (f : Flight C n s t) (hv : t.ebc.rspValid = s.ebc.rspValid)
    (hl : t.ebc.abortLatch = s.ebc.abortLatch) : t.Calm :=
  ⟨f.quiet h.quiet, hv.trans h.rspValid, hl.trans h.abortLatch⟩

/-- A calm edge is the micro-state's action without a port error. -/
theorem State.Calm.edge (h : s.Calm) (hs : s.ebc.seq ≠ .ready)
    (hm : s.ctx.portErr = false → microOp s.ctx s.ebc = some e) : edge s = .next (s.advance e) := by
  obtain ⟨hr, ha, hp⟩ := input_quiet h.quiet
  rw [edge_micro hr ha hs, h.openEdge, hm hp]

/-- It is a flight of its own. -/
theorem State.Calm.flight_edge (h : s.Calm) (hs : s.ebc.seq ≠ .ready) (hC : C s.ebc.pincfg)
    (hm : s.ctx.portErr = false → microOp s.ctx s.ebc = some e) : Flight C 1 s (s.advance e) :=
  .step (by rwa [State.atEdge_high (input_quiet h.quiet).1]) hC (h.edge hs hm) (.here _)

end

/-- A flight of `n` edges from `s` leaves the registers at `e`. -/
def Leads (C : Pins → Prop) (n : Nat) (s : State) (e : Ebc) : Prop := ∃ t, Flight C n s t ∧ t.ebc = e

section
variable {C : Pins → Prop} {n : Nat} {s : State} {e e' : Ebc}

theorem Leads.here : Leads C 0 s s.ebc := ⟨s, .here s, rfl⟩

/-- One calm edge more. -/
theorem Leads.step (f : Leads C n s e) (h : s.Calm) (hs : e.seq ≠ .ready) (hC : C e.pincfg)
    (hm : ∀ x, x.par = s.par → x.portErr = false → microOp x e = some e')
    (hv : e.rspValid = s.ebc.rspValid := by rfl) (hl : e.abortLatch = s.ebc.abortLatch := by rfl) :
    Leads C (n + 1) s e' := by
  obtain ⟨t, f, rfl⟩ := f
  have ht := h.flight f hv hl
  exact ⟨t.advance e', f.trans (ht.flight_edge hs hC (hm t.ctx f.took.1)), rfl⟩

end

/-! ## The micro-states without a port error -/

section
variable {x : EdgeCtx} {e : Ebc}

theorem microOp_xOe (hx : x.portErr = false) (hs : e.seq = .xOe) (hOE : (pinAt e.pincfg pinOE).isOutput = true) :
    microOp x e = some { e with pincfg := drivePins (maskPin pinOE) (maskPin pinOE) e.pincfg, seq := .xCe } := by
  simp [microOp, hs, xOe, hx, setPins_quiet, hOE]

theorem microOp_xCe (hx : x.portErr = false) (hs : e.seq = .xCe) (hCE : (pinAt e.pincfg pinCE).isOutput = true) :
    microOp x e =
      xCeNext { e with pincfg := drivePins (maskPin pinCE) (maskPin pinCE) e.pincfg, phase := .idle } := by
  simp [microOp, hs, xCe, hx, setPins_quiet, hCE]

theorem microOp_ewCtl (hx : x.portErr = false) (hs : e.seq = .ewCtl) :
    microOp x e = some { e with pincfg := configurePins maskCtrl .output true e.pincfg, seq := .ewAddr } := by
  simp [microOp, hs, ewCtl, hx]

theorem microOp_ewAddr (hx : x.portErr = false) (hs : e.seq = .ewAddr) :
    microOp x e = some { e with pincfg := configurePins maskAddr .output false e.pincfg, seq := .ewData } := by
  simp [microOp, hs, ewAddr, hx]

theorem microOp_ewData (hx : x.portErr = false) (hs : e.seq = .ewData) :
    microOp x e = some { e with pincfg := configurePins maskData .output false e.pincfg, seq := .ewCe } := by
  simp [microOp, hs, ewData, hx]

theorem microOp_ewCe (hx : x.portErr = false) (hs : e.seq = .ewCe) :
    microOp x e = some ({ e with
      pincfg := configurePins (maskPin pinCE) .output false e.pincfg, phase := .writeActive }.complete 0) := by
  simp [microOp, hs, ewCe, hx]

theorem microOp_erData (hx : x.portErr = false) (hs : e.seq = .erData) :
    microOp x e = some { e with pincfg := configurePins maskData .input true e.pincfg, seq := .erCtl } := by
  simp [microOp, hs, erData, hx]

theorem microOp_erCtl (hx : x.portErr = false) (hs : e.seq = .erCtl) :
    microOp x e = some { e with pincfg := configurePins maskCtrl .output true e.pincfg, seq := .erAddr } := by
  simp [microOp, hs, erCtl, hx]

theorem microOp_erAddr (hx : x.portErr = false) (hs : e.seq = .erAddr) :
    microOp x e = some { e with pincfg := configurePins maskAddr .output false e.pincfg, seq := .erCe } := by
  simp [microOp, hs, erAddr, hx]

theorem microOp_erCe (hx : x.portErr = false) (hs : e.seq = .erCe) :
    microOp x e = some { e with pincfg := configurePins (maskPin pinCE) .output false e.pincfg, seq := .erOe } := by
  simp [microOp, hs, erCe, hx]

theorem microOp_erOe (hx : x.portErr = false) (hs : e.seq = .erOe) :
    microOp x e = some ({ e with
      pincfg := configurePins (maskPin pinOE) .output false e.pincfg, phase := .readActive }.complete 0) := by
  simp [microOp, hs, erOe, hx]

theorem microOp_wAddr (hx : x.portErr = false) (hs : e.seq = .wAddr)
    (hA : ∀ k, inMask maskAddr k = true → (pinAt e.pincfg k).isOutput = true) :
    microOp x e = some { e with pincfg := drivePins maskAddr (onAddrLines e.addrR) e.pincfg, seq := .wData } := by
  simp [microOp, hs, wAddr, hx, setPins_quiet hA]

theorem microOp_wData (hx : x.portErr = false) (hs : e.seq = .wData)
    (hD : ∀ k, inMask maskData k = true → (pinAt e.pincfg k).isOutput = true) :
    microOp x e = some { e with
      pincfg := drivePins maskData (onDataLines e.wdataR) e.pincfg, cnt := x.par.nSettle, seq := .wSettle } := by
  simp [microOp, hs, wData, hx, setPins_quiet hD]

theorem microOp_rAddr (hx : x.portErr = false) (hs : e.seq = .rAddr)
    (hA : ∀ k, inMask maskAddr k = true → (pinAt e.pincfg k).isOutput = true) :
    microOp x e = some { e with
      pincfg := drivePins maskAddr (onAddrLines e.addrR) e.pincfg, cnt := x.par.nAccess, seq := .rAccess } := by
  simp [microOp, hs, rAddr, hx, setPins_quiet hA]

theorem microOp_rSample (hx : x.portErr = false) (hs : e.seq = .rSample)
    (hD : ∀ k, inMask maskData k = true → (pinAt e.pincfg k).isInput = true) :
    microOp x e = some ({ e with rdataR := fromDataLines (samplePins maskData x.sample) }.complete
      (fromDataLines (samplePins maskData x.sample))) := by
  simp [microOp, hs, rSample, hx, getPins_quiet hD]

/-! ### Delay states (42_bus_transfer.md R140): they count, and act where the count is 1 -/

theorem microOp_counts (hd : e.seq.isDelay = true) (hc : 1 < e.cnt) :
    microOp x e = some { e with cnt := e.cnt - 1 } := by
  cases hs : e.seq <;> simp only [hs, Seq.isDelay, Bool.false_eq_true] at hd <;>
    simp only [microOp, hs, wSettle, wPulse, wRecover, rAccess, delayState_more hc]

theorem microOp_wSettle_acts (hx : x.portErr = false) (hs : e.seq = .wSettle)
    (hWE : (pinAt e.pincfg pinWE).isOutput = true) :
    microOp x { e with cnt := 1 } =
      some { e with pincfg := drivePins (maskPin pinWE) 0 e.pincfg, cnt := x.par.nPulse, seq := .wPulse } := by
  simp [microOp, hs, wSettle, delayState_one, hx, setPins_quiet, hWE]

theorem microOp_wPulse_acts (hx : x.portErr = false) (hs : e.seq = .wPulse)
    (hWE : (pinAt e.pincfg pinWE).isOutput = true) :
    microOp x { e with cnt := 1 } = some { e with
      pincfg := drivePins (maskPin pinWE) (maskPin pinWE) e.pincfg, cnt := x.par.nRecover, seq := .wRecover } := by
  simp [microOp, hs, wPulse, delayState_one, hx, setPins_quiet, hWE]

theorem microOp_wRecover_acts (hs : e.seq = .wRecover) :
    microOp x { e with cnt := 1 } = some ({ e with cnt := 0 }.complete 0) := by
  simp [microOp, hs, wRecover, delayState_one]

theorem microOp_rAccess_acts (hs : e.seq = .rAccess) :
    microOp x { e with cnt := 1 } = some { e with cnt := 0, seq := .rSample } := by
  simp [microOp, hs, rAccess, delayState_one]

end

/-! ## Sequences -/

section
variable {C : Pins → Prop} {s : State} {e : Ebc}

/-- A delay state counts down to 1 and moves no pin. -/
theorem Leads.counts {k : Nat} (f : Leads C n s e) (h : s.Calm) (hd : e.seq.isDelay = true) (hcnt : e.cnt = k + 1)
    (hC : C e.pincfg) (hv : e.rspValid = s.ebc.rspValid := by rfl) (hl : e.abortLatch = s.ebc.abortLatch := by rfl) :
    Leads C (n + k) s { e with cnt := 1 } := by
  induction k generalizing n e with
  | zero =>
    have hone : e.cnt = 1 := hcnt
    rw [← hone]
    exact f
  | succ k ih =>
    have hseq : e.seq ≠ .ready := fun hr => by rw [hr] at hd; cases hd
    have f' := f.step h hseq hC (fun x _ _ => microOp_counts hd (by omega)) hv hl
    simpa only [Nat.add_assoc, Nat.add_comm 1 k] using ih f' hd (by simp [hcnt]) hC hv hl

/-- A delay state takes as many edges as it was entered with and acts on the last of them (R140). -/
theorem Leads.delay (f : Leads C n s e) (h : s.Calm) (hd : e.seq.isDelay = true) (hcnt : 0 < e.cnt) (hC : C e.pincfg)
    (hm : ∀ x, x.par = s.par → x.portErr = false → microOp x { e with cnt := 1 } = some e')
    (hv : e.rspValid = s.ebc.rspValid := by rfl) (hl : e.abortLatch = s.ebc.abortLatch := by rfl) :
    Leads C (n + e.cnt) s e' := by
  have hseq : e.seq ≠ .ready := fun hr => by rw [hr] at hd; cases hd
  have f' := (f.counts (k := e.cnt - 1) h hd (by omega) hC hv hl).step h hseq hC hm hv hl
  simpa only [show n + (e.cnt - 1) + 1 = n + e.cnt by omega] using f'

/-- X_OE and X_CE (41_bus_phase.md R123): OE̅ and CE̅ High, `PHASE` IDLE, and on by the command. -/
theorem leads_leave (h : s.Calm) (hs : s.ebc.seq = .xOe) (hOE : (pinAt s.ebc.pincfg pinOE).isOutput = true)
    (hCE : (pinAt s.ebc.pincfg pinCE).isOutput = true) (h0 : C s.ebc.pincfg)
    (h1 : C (drivePins (maskPin pinOE) (maskPin pinOE) s.ebc.pincfg))
    (hnext : xCeNext { s.ebc with
      pincfg := drivePins (maskPin pinCE) (maskPin pinCE) (drivePins (maskPin pinOE) (maskPin pinOE) s.ebc.pincfg)
      phase := .idle
      seq := .xCe } = some e) : Leads C 2 s e :=
  have f₁ : Leads C 1 s { s.ebc with
      pincfg := drivePins (maskPin pinOE) (maskPin pinOE) s.ebc.pincfg, seq := .xCe } :=
    Leads.here.step h (by simp [hs]) h0 fun _ _ hx => microOp_xOe hx hs hOE
  f₁.step h (by simp) h1 fun _ _ hx => (microOp_xCe hx rfl (by simpa using hCE)).trans hnext

/-- EW_CTL to EW_CE (41_bus_phase.md R121). -/
theorem leads_enterWrite (h : s.Calm) (hs : s.ebc.seq = .ewCtl) (h0 : C s.ebc.pincfg) (hC : ∀ q, ControlsHigh q → C q) :
    ∃ p, EnteredWrite p ∧ Leads C 4 s ({ s.ebc with pincfg := p, phase := .writeActive }.complete 0) :=
  have f₁ : Leads C 1 s { s.ebc with pincfg := configurePins maskCtrl .output true s.ebc.pincfg, seq := .ewAddr } :=
    Leads.here.step h (by simp [hs]) h0 fun _ _ hx => microOp_ewCtl hx hs
  have f₂ : Leads C 2 s { s.ebc with
      pincfg := configurePins maskAddr .output false (configurePins maskCtrl .output true s.ebc.pincfg)
      seq := .ewData } :=
    f₁.step h (by simp) (hC _ (by simp [ControlsHigh])) fun _ _ hx => microOp_ewAddr hx rfl
  have f₃ : Leads C 3 s { s.ebc with
      pincfg := configurePins maskData .output false
        (configurePins maskAddr .output false (configurePins maskCtrl .output true s.ebc.pincfg))
      seq := .ewCe } :=
    f₂.step h (by simp) (hC _ (by simp [ControlsHigh])) fun _ _ hx => microOp_ewData hx rfl
  ⟨_, by simp [EnteredWrite, AddrLow, DataLow],
    f₃.step h (by simp) (hC _ (by simp [ControlsHigh])) fun _ _ hx => microOp_ewCe hx rfl⟩

/-- ER_DATA to ER_OE (41_bus_phase.md R122). -/
theorem leads_enterRead (h : s.Calm) (hs : s.ebc.seq = .erData) (h0 : C s.ebc.pincfg)
    (h1 : C (configurePins maskData .input true s.ebc.pincfg))
    (hC : ∀ q, DataIn q → pinAt q pinWE = .output .high → pinAt q pinOE = .output .high → C q) :
    ∃ p, EnteredRead p ∧ Leads C 5 s ({ s.ebc with pincfg := p, phase := .readActive }.complete 0) :=
  have f₁ : Leads C 1 s { s.ebc with pincfg := configurePins maskData .input true s.ebc.pincfg, seq := .erCtl } :=
    Leads.here.step h (by simp [hs]) h0 fun _ _ hx => microOp_erData hx hs
  have f₂ : Leads C 2 s { s.ebc with
      pincfg := configurePins maskCtrl .output true (configurePins maskData .input true s.ebc.pincfg)
      seq := .erAddr } :=
    f₁.step h (by simp) h1 fun _ _ hx => microOp_erCtl hx rfl
  have f₃ : Leads C 3 s { s.ebc with
      pincfg := configurePins maskAddr .output false
        (configurePins maskCtrl .output true (configurePins maskData .input true s.ebc.pincfg))
      seq := .erCe } :=
    f₂.step h (by simp) (hC _ (by simp [DataIn]) (by simp) (by simp)) fun _ _ hx => microOp_erAddr hx rfl
  have f₄ : Leads C 4 s { s.ebc with
      pincfg := configurePins (maskPin pinCE) .output false (configurePins maskAddr .output false
        (configurePins maskCtrl .output true (configurePins maskData .input true s.ebc.pincfg)))
      seq := .erOe } :=
    f₃.step h (by simp) (hC _ (by simp [DataIn]) (by simp) (by simp)) fun _ _ hx => microOp_erCe hx rfl
  ⟨_, by simp [EnteredRead, AddrLow, DataIn],
    f₄.step h (by simp) (hC _ (by simp [DataIn]) (by simp) (by simp)) fun _ _ hx => microOp_erOe hx rfl⟩

/-! ### The byte write (42_bus_transfer.md R141, R143) -/

/-- The data lines are driven to byte `d`. -/
abbrev DataLines (d : Byte) (p : Pins) : Prop := ∀ i : Fin 8, pinAt p (pinIO i) = .output (Level.ofBit (d.getLsbD i))

/-- The pads of a WRB that has its operands on the lines: address `a`, data `d`, WE̅ at level `l`. -/
abbrev WriteLines (a d : Byte) (l : Level) (p : Pins) : Prop :=
  AddrLines a p ∧ DataLines d p ∧
    pinAt p pinWE = .output l ∧ pinAt p pinOE = .output .high ∧ pinAt p pinCE = .output .low

/-- A property of the lines of a group holds on every pin of the group's mask. -/
theorem addr_pins {P : Pin → Prop} (h : ∀ i, P (pinA i)) (k : Pin) (hk : inMask maskAddr k = true) : P k := by
  rcases pin_cases k with ⟨i, rfl⟩ | ⟨i, rfl⟩ | rfl | rfl | rfl
  · exact h i
  all_goals simp at hk

theorem data_pins {P : Pin → Prop} (h : ∀ i, P (pinIO i)) (k : Pin) (hk : inMask maskData k = true) : P k := by
  rcases pin_cases k with ⟨i, rfl⟩ | ⟨i, rfl⟩ | rfl | rfl | rfl
  case inr.inl => exact h i
  all_goals simp at hk

/-- W_ADDR and W_DATA: the operands go onto the lines. -/
theorem leads_operands (h : s.Calm) (hs : s.ebc.seq = .wAddr) (hp : WritePins s.ebc.pincfg) :
    ∃ p, WriteLines s.ebc.addrR s.ebc.wdataR .high p ∧
      Leads WritePins 2 s { s.ebc with pincfg := p, cnt := s.par.nSettle, seq := .wSettle } := by
  obtain ⟨hA, hD, hWE, hOE, hCE⟩ := hp
  have f₁ : Leads WritePins 1 s { s.ebc with
      pincfg := drivePins maskAddr (onAddrLines s.ebc.addrR) s.ebc.pincfg, seq := .wData } :=
    Leads.here.step h (by simp [hs]) ⟨hA, hD, hWE, hOE, hCE⟩ fun _ _ hx => microOp_wAddr hx hs (addr_pins hA)
  refine ⟨_, ?_, f₁.step h (by simp) ?_ fun x hx hp => hx ▸ microOp_wData hp rfl (data_pins fun i => ?_)⟩
  · simp [WriteLines, AddrLines, DataLines, hWE, hOE, hCE]
  · simp [WritePins, hD, hWE, hOE, hCE]
  · simpa using hD i

section
variable {a d : Byte}

/-- The lines of a WRB with WE̅ set to another level. -/
theorem WriteLines.setWE {l : Level} {v : PinMask} {p : Pins} (h : WriteLines a d l p) :
    WriteLines a d (Level.ofBit (inMask v pinWE)) (drivePins (maskPin pinWE) v p) := by
  obtain ⟨hA, hD, _, hOE, hCE⟩ := h
  exact ⟨fun i => by simpa using hA i, fun i => by simpa using hD i, by simp, by simpa using hOE, by simpa using hCE⟩

/-- W_SETTLE: WE̅ goes Low after N_SETTLE edges. -/
theorem leads_settle (h : s.Calm) (hs : s.ebc.seq = .wSettle) (hcnt : s.ebc.cnt = s.par.nSettle)
    (hp : WriteLines a d .high s.ebc.pincfg) :
    ∃ p, WriteLines a d .low p ∧
      Leads (WriteLines a d .high) s.par.nSettle s { s.ebc with pincfg := p, cnt := s.par.nPulse, seq := .wPulse } := by
  obtain ⟨_, _, hWE, _, _⟩ := id hp
  have f := Leads.here.delay h (by rw [hs]; rfl) (hcnt ▸ s.par.nSettle.pos) hp fun x hx hp' =>
    hx ▸ microOp_wSettle_acts hp' hs (by simp [hWE])
  exact ⟨_, by simpa using hp.setWE (v := 0), by simpa [hcnt] using f⟩

/-- W_PULSE: WE̅ goes High again after N_PULSE edges. -/
theorem leads_pulse (h : s.Calm) (hs : s.ebc.seq = .wPulse) (hcnt : s.ebc.cnt = s.par.nPulse)
    (hp : WriteLines a d .low s.ebc.pincfg) :
    ∃ p, WriteLines a d .high p ∧
      Leads (WriteLines a d .low) s.par.nPulse s
        { s.ebc with pincfg := p, cnt := s.par.nRecover, seq := .wRecover } := by
  obtain ⟨_, _, hWE, _, _⟩ := id hp
  have f := Leads.here.delay h (by rw [hs]; rfl) (hcnt ▸ s.par.nPulse.pos) hp fun x hx hp' =>
    hx ▸ microOp_wPulse_acts hp' hs (by simp [hWE])
  exact ⟨_, by simpa using hp.setWE (v := maskPin pinWE), by simpa [hcnt] using f⟩

/-- W_RECOVER: the command completes after N_RECOVER edges. -/
theorem leads_recover (h : s.Calm) (hs : s.ebc.seq = .wRecover) (hcnt : s.ebc.cnt = s.par.nRecover)
    (hp : WriteLines a d .high s.ebc.pincfg) :
    Leads (WriteLines a d .high) s.par.nRecover s ({ s.ebc with cnt := 0 }.complete 0) := by
  have f := Leads.here.delay h (by rw [hs]; rfl) (hcnt ▸ s.par.nRecover.pos) hp fun _ _ _ => microOp_wRecover_acts hs
  simpa [hcnt] using f

end

/-- The pad trace of a WRB (R143, R144), as one flight for each part of it: the operands go onto the lines, stand there
with WE̅ High, with WE̅ Low, and with WE̅ High again. -/
theorem wrb_flight (h : s.Calm) (hs : s.ebc.seq = .wAddr) (hp : WritePins s.ebc.pincfg) :
    ∃ t₁ t₂ t₃ t, Flight WritePins 2 s t₁ ∧
      Flight (WriteLines s.ebc.addrR s.ebc.wdataR .high) s.par.nSettle t₁ t₂ ∧
      Flight (WriteLines s.ebc.addrR s.ebc.wdataR .low) s.par.nPulse t₂ t₃ ∧
      Flight (WriteLines s.ebc.addrR s.ebc.wdataR .high) s.par.nRecover t₃ t ∧
      WriteLines s.ebc.addrR s.ebc.wdataR .high t.ebc.pincfg ∧
      t.ebc = { s.ebc with pincfg := t.ebc.pincfg, cnt := 0 }.complete 0 := by
  obtain ⟨p₁, hp₁, t₁, f₁, he₁⟩ := leads_operands h hs hp
  have h₁ : t₁.Calm := h.flight f₁ (by rw [he₁]) (by rw [he₁])
  obtain ⟨p₂, hp₂, t₂, f₂, he₂⟩ := leads_settle h₁ (by rw [he₁]) (by rw [he₁, f₁.took.1]) (by rwa [he₁])
  have h₂ : t₂.Calm := h₁.flight f₂ (by rw [he₂]) (by rw [he₂])
  obtain ⟨p₃, hp₃, t₃, f₃, he₃⟩ := leads_pulse h₂ (by rw [he₂]) (by rw [he₂, f₂.took.1]) (by rwa [he₂])
  have h₃ : t₃.Calm := h₂.flight f₃ (by rw [he₃]) (by rw [he₃])
  obtain ⟨t, f, he⟩ := leads_recover h₃ (by rw [he₃]) (by rw [he₃, f₃.took.1]) (by rwa [he₃])
  have hpar₁ : t₁.par = s.par := f₁.took.1
  have hpar₂ : t₂.par = s.par := f₂.took.1.trans hpar₁
  have hpar₃ : t₃.par = s.par := f₃.took.1.trans hpar₂
  rw [hpar₁] at f₂
  rw [hpar₂] at f₃
  rw [hpar₃] at f
  refine ⟨t₁, t₂, t₃, t, f₁, f₂, f₃, f, ?_, ?_⟩
  · rw [he, he₃]
    exact hp₃
  · simp only [he, he₃, he₂, he₁]
    rfl

/-! ### The byte read (42_bus_transfer.md R142, R143) -/

/-- The pads of an RDB that has address `a` on the lines. -/
abbrev ReadLines (a : Byte) (p : Pins) : Prop :=
  AddrLines a p ∧ (∀ i, pinAt p (pinIO i) = .input .up) ∧
    pinAt p pinWE = .output .high ∧ pinAt p pinOE = .output .low ∧ pinAt p pinCE = .output .low

/-- R_ADDR: the address goes onto its lines. -/
theorem leads_readAddr (h : s.Calm) (hs : s.ebc.seq = .rAddr) (hp : ReadPins s.ebc.pincfg) :
    ∃ p, ReadLines s.ebc.addrR p ∧ (∀ k, inMask maskAddr k = false → pinAt p k = pinAt s.ebc.pincfg k) ∧
      Leads ReadPins 1 s { s.ebc with pincfg := p, cnt := s.par.nAccess, seq := .rAccess } := by
  obtain ⟨hA, hD, hWE, hOE, hCE⟩ := id hp
  refine ⟨_, ?_, fun k hk => ?_,
    Leads.here.step h (by simp [hs]) hp fun x hx hp => hx ▸ microOp_rAddr hp hs (addr_pins hA)⟩
  · simp [ReadLines, AddrLines, hD, hWE, hOE, hCE]
  · simp [hk]

/-- R_ACCESS: N_ACCESS edges with the lines held. -/
theorem leads_access {a : Byte} (h : s.Calm) (hs : s.ebc.seq = .rAccess) (hcnt : s.ebc.cnt = s.par.nAccess)
    (hp : ReadLines a s.ebc.pincfg) :
    Leads (ReadLines a) s.par.nAccess s { s.ebc with cnt := 0, seq := .rSample } := by
  have f := Leads.here.delay h (by rw [hs]; rfl) (hcnt ▸ s.par.nAccess.pos) hp fun _ _ _ => microOp_rAccess_acts hs
  simpa [hcnt] using f

/-- The byte that R_SAMPLE takes from the data lines in the present cycle (R142). -/
def State.dataSampled (s : State) : Byte := fromDataLines (samplePins maskData s.sample)

/-- The pad trace of an RDB, as one flight for each part of it: the address goes onto its lines, stands there for
N_ACCESS cycles, and in one cycle more the data lines are sampled. -/
theorem rdb_flight (h : s.Calm) (hs : s.ebc.seq = .rAddr) (hp : ReadPins s.ebc.pincfg) :
    ∃ t₁ t₂ t, Flight ReadPins 1 s t₁ ∧ Flight (ReadLines s.ebc.addrR) s.par.nAccess t₁ t₂ ∧
      Flight (ReadLines s.ebc.addrR) 1 t₂ t ∧ ReadLines s.ebc.addrR t.ebc.pincfg ∧
      (∀ k, inMask maskAddr k = false → pinAt t.ebc.pincfg k = pinAt s.ebc.pincfg k) ∧
      t.ebc = { s.ebc with pincfg := t.ebc.pincfg, cnt := 0, rdataR := t₂.dataSampled }.complete t₂.dataSampled := by
  obtain ⟨p, hp₁, hkeep, t₁, f₁, he₁⟩ := leads_readAddr h hs hp
  have h₁ : t₁.Calm := h.flight f₁ (by rw [he₁]) (by rw [he₁])
  obtain ⟨t₂, f₂, he₂⟩ := leads_access h₁ (by rw [he₁]) (by rw [he₁, f₁.took.1]) (by rwa [he₁])
  have h₂ : t₂.Calm := h₁.flight f₂ (by rw [he₂]) (by rw [he₂])
  rw [f₁.took.1] at f₂
  rw [he₁] at he₂
  have hp₂ : ReadLines s.ebc.addrR t₂.ebc.pincfg := by rwa [he₂]
  obtain ⟨_, hD, _⟩ := id hp₂
  have f := h₂.flight_edge (C := ReadLines s.ebc.addrR) (by simp [he₂]) hp₂ fun hx =>
    microOp_rSample hx (by rw [he₂]) (data_pins fun i => by simp [hD i])
  refine ⟨t₁, t₂, _, f₁, f₂, f, hp₂, ?_, ?_⟩
  · simp only [State.advance_ebc, he₂]
    exact hkeep
  · simp only [State.advance_ebc, he₂]
    rfl

end

/-! ## Whole commands -/

section
variable {C : Pins → Prop} {n : Nat} {s t : State} {i : Instr}

/-- The registers that acceptance of command `i` starts from. -/
def State.latched (s : State) (i : Instr) : Ebc := (s.ebc.openEdge false).latch (encode i)

@[simp] theorem State.latched_pincfg (s : State) (i : Instr) : (s.latched i).pincfg = s.ebc.pincfg := rfl
@[simp] theorem State.latched_phase (s : State) (i : Instr) : (s.latched i).phase = s.ebc.phase := rfl
@[simp] theorem State.latched_fault (s : State) (i : Instr) : (s.latched i).fault = s.ebc.fault := rfl

/-- The registers after the acceptance of command `i` with quiet inputs. -/
def State.accepted (s : State) (i : Instr) : Ebc := acceptInstr i (s.latched i)

/-- A command with quiet inputs whose acceptance starts a flight to READY is that flight; the bound is R205's. -/
theorem exec_of_flight (hq : s.quiet) (hs : s.ebc.seq = .ready) (f : Flight C n (s.advance (s.accepted i)) t)
    (ht : t.ebc.seq = .ready)
    (hn : n ≤ (s.par.nSettle : Nat) + s.par.nPulse + s.par.nRecover + s.par.nAccess + 8) : exec i s = .next t := by
  rw [exec_ready (cmdReady_of_undisturbed (quiet_undisturbed hq) hs), acceptEdge, State.atEdge_high (input_quiet hq).1]
  refine f.runToReady ht ?_
  simp only [State.edgeBound, State.advance_par]
  omega

/-- Acceptance with FAULT = 0 passes the first two checks (30_encoding.md R90). -/
theorem passChecks_ok {e : Ebc} {go : Ebc → Ebc} (h : e.fault = false) : e.passChecks true go = go e := by
  simp [Ebc.passChecks, h]

/-! ### Acceptance with FAULT = 0 and quiet inputs -/

theorem accepted_entw (hf : s.ebc.fault = false) :
    s.accepted .entw = (s.latched .entw).toPhaseChange fun e => { e with seq := .ewCtl } := by
  rw [State.accepted, acceptInstr, acceptEntw, passChecks_ok (by simpa using hf)]

theorem accepted_entr (hf : s.ebc.fault = false) :
    s.accepted .entr = (s.latched .entr).toPhaseChange fun e => { e with seq := .erData } := by
  rw [State.accepted, acceptInstr, acceptEntr, passChecks_ok (by simpa using hf)]

theorem accepted_wrb (hf : s.ebc.fault = false) (hph : s.ebc.phase = .writeActive) (a d : Byte) :
    s.accepted (.wrb a d) = { s.latched (.wrb a d) with addrR := a, wdataR := d, seq := .wAddr } := by
  rw [State.accepted, acceptInstr, acceptWrb, passChecks_ok (by simpa using hf), if_pos (by simpa using hph)]

theorem accepted_rdb (hf : s.ebc.fault = false) (hph : s.ebc.phase = .readActive) (a : Byte) :
    s.accepted (.rdb a) = { s.latched (.rdb a) with addrR := a, seq := .rAddr } := by
  rw [State.accepted, acceptInstr, acceptRdb, passChecks_ok (by simpa using hf), if_pos (by simpa using hph)]

/-- What acceptance makes of the latched registers is calm if it leaves the response and the latch alone. -/
theorem calm_accepted {e : Ebc} (hq : s.quiet) (hv : e.rspValid = false := by rfl)
    (hl : e.abortLatch = (s.ebc.abortLatch && false) := by rfl) : (s.advance e).Calm :=
  ⟨quiet_advance hq e, hv, hl.trans (Bool.and_false _)⟩

/-- A whole WRB in WRITE_ACTIVE: after its accepting edge, the flights of its pad trace (R143, R144). -/
theorem wrb_runs (hq : s.quiet) (hs : s.ebc.seq = .ready) (hf : s.ebc.fault = false) (hph : s.ebc.phase = .writeActive)
    (hp : WritePins s.ebc.pincfg) (a d : Byte) :
    ∃ t₁ t₂ t₃ t, exec (.wrb a d) s = .next t ∧ Flight WritePins 2 (s.advance (s.accepted (.wrb a d))) t₁ ∧
      Flight (WriteLines a d .high) s.par.nSettle t₁ t₂ ∧ Flight (WriteLines a d .low) s.par.nPulse t₂ t₃ ∧
      Flight (WriteLines a d .high) s.par.nRecover t₃ t ∧ WriteLines a d .high t.ebc.pincfg ∧
      t.ebc = { s.latched (.wrb a d) with
        pincfg := t.ebc.pincfg, addrR := a, wdataR := d, cnt := 0, seq := .wAddr }.complete 0 := by
  have hacc := accepted_wrb hf hph a d
  obtain ⟨t₁, t₂, t₃, t, f₁, f₂, f₃, f₄, hlines, ht⟩ :=
    wrb_flight (s := s.advance { s.latched (.wrb a d) with addrR := a, wdataR := d, seq := .wAddr })
      (calm_accepted hq) rfl hp
  rw [← hacc] at f₁
  have f := ((f₁.anyPads.trans f₂.anyPads).trans f₃.anyPads).trans f₄.anyPads
  refine ⟨t₁, t₂, t₃, t, exec_of_flight hq hs f (by rw [ht]; rfl) ?_, f₁, f₂, f₃, f₄, hlines, ht⟩
  simp only [State.advance_par]
  omega

/-- A whole RDB in READ_ACTIVE: after its accepting edge, the flights of its pad trace (R143). -/
theorem rdb_runs (hq : s.quiet) (hs : s.ebc.seq = .ready) (hf : s.ebc.fault = false) (hph : s.ebc.phase = .readActive)
    (hp : ReadPins s.ebc.pincfg) (a : Byte) :
    ∃ t₁ t₂ t, exec (.rdb a) s = .next t ∧ Flight ReadPins 1 (s.advance (s.accepted (.rdb a))) t₁ ∧
      Flight (ReadLines a) s.par.nAccess t₁ t₂ ∧ Flight (ReadLines a) 1 t₂ t ∧ ReadLines a t.ebc.pincfg ∧
      (∀ k, inMask maskAddr k = false → pinAt t.ebc.pincfg k = pinAt s.ebc.pincfg k) ∧
      t.ebc = { s.latched (.rdb a) with
        pincfg := t.ebc.pincfg, addrR := a, rdataR := t₂.dataSampled, cnt := 0, seq := .rAddr }.complete
          t₂.dataSampled := by
  have hacc := accepted_rdb hf hph a
  obtain ⟨t₁, t₂, t, f₁, f₂, f₃, hlines, hkeep, ht⟩ :=
    rdb_flight (s := s.advance { s.latched (.rdb a) with addrR := a, seq := .rAddr }) (calm_accepted hq) rfl hp
  rw [← hacc] at f₁
  have f := (f₁.anyPads.trans f₂.anyPads).trans f₃.anyPads
  refine ⟨t₁, t₂, t, exec_of_flight hq hs f (by rw [ht]; rfl) ?_, f₁, f₂, f₃, hlines, hkeep, ht⟩
  simp only [State.advance_par]
  omega

end

end Sys2Proof.Machine
end

section
/-! What the device makes of the pads of a transfer (spec/20_memory.md R54 to R59): of a write pulse with its operands
held around it, and of a read with its address held. Each stage is a property of the device after `k` cycles of it. -/

namespace Sys2Proof.Machine

/-! ## Ages (R58(f)) -/

theorem ageOf_pos (v : Byte) (prev : Option Byte) (age : Nat) : 1 ≤ ageOf (some v) prev age := by
  simp only [ageOf]
  split <;> omega

@[simp] theorem ageOf_held (v : Byte) (age : Nat) : ageOf (some v) (some v) age = age + 1 := by
  simp [ageOf]

/-! ## The pads of a WRB, as the device sees them -/

section
variable {s : State} {a d : Byte} {l : Level}

/-- A net that the device does not drive stands at its pad's level (R55). -/
theorem State.line_passive (h : s.devDrives = false) (k : Pin) : s.line k = passiveNet (pinAt s.ebc.pincfg k) := by
  simp [State.line, h]

theorem WriteLines.devAddr (h : WriteLines a d l s.ebc.pincfg) : s.devAddr = some a :=
  State.devAddr_of_lines h.1

theorem WriteLines.devData (h : WriteLines a d l s.ebc.pincfg) : s.devData = some d := by
  obtain ⟨_, hD, _, hOE, _⟩ := h
  exact byteOfNets_eq fun i => by rw [State.line_passive (State.devDrives_of_highOE hOE), hD i, passiveNet_output]

theorem WriteLines.seenLow_OE (h : WriteLines a d l s.ebc.pincfg) : s.seenLow pinOE = false := by
  obtain ⟨_, _, _, hOE, _⟩ := h
  exact State.seenLow_of_high hOE

theorem WriteLines.pulseOff (h : WriteLines a d .high s.ebc.pincfg) : s.pulseOn = false := by
  obtain ⟨_, _, hWE, _, _⟩ := h
  exact State.pulseOn_of_highWE hWE

theorem WriteLines.pulseOn (h : WriteLines a d .low s.ebc.pincfg) : s.pulseOn = true := by
  obtain ⟨_, _, hWE, _, hCE⟩ := h
  simp [State.pulseOn, State.seenLow_of_low hWE, State.seenLow_of_low hCE]

end

/-! ## The stages of a write (R58) -/

/-- The operands have stood on the lines for `k` cycles with no pulse. -/
structure SetUp (m : Memory) (a d : Byte) (k : Nat) (s : State) : Prop where
  rest : s.atRest
  mem : s.dev.mem = m
  ageA : k ≤ s.dev.ageA
  ageD : k ≤ s.dev.ageD
  prevAddr : s.dev.prevAddr = some a
  prevData : s.dev.prevData = some d

/-- A good pulse has been on for `k` cycles. -/
structure Pulsing (m : Memory) (a d : Byte) (k : Nat) (s : State) : Prop where
  inPulse : s.dev.inPulse = true
  wcLeft : s.dev.wcLeft = 0
  mem : s.dev.mem = m
  pLen : s.dev.pLen = k
  pAddr : s.dev.pAddr = some a
  pData : s.dev.pData = some d
  pBad : s.dev.pBad = false

/-- A good pulse has been over for `k` cycles: until `D_WC` of them its write cycle runs, then its byte is written. -/
structure Committing (m : Memory) (a d : Byte) (k : Nat) (s : State) : Prop where
  inPulse : s.dev.inPulse = false
  wcLeft : s.dev.wcLeft = (s.par.dWc : Nat) - k
  running : k < (s.par.dWc : Nat) →
    s.dev.wcAddr = some a ∧ s.dev.wcData = some d ∧ s.dev.wcOk = true ∧ s.dev.mem = m
  written : (s.par.dWc : Nat) ≤ k → s.dev.mem = memWrite s.par.mem0 m a d

section
variable {s : State} {m : Memory} {a d : Byte} {k : Nat} (e : Ebc)

theorem SetUp.first (hr : s.atRest) (hm : s.dev.mem = m) (hp : WriteLines a d .high s.ebc.pincfg) :
    SetUp m a d 1 (s.advance e) := by
  obtain ⟨hpulse, hcycle, hmem⟩ := State.devStep_rest hr hp.pulseOff
  exact {
    rest := ⟨hpulse, hcycle⟩
    mem := hmem.trans hm
    ageA := by simpa [State.ageANow, hp.devAddr] using ageOf_pos a _ _
    ageD := by simpa [State.ageDNow, hp.devData] using ageOf_pos d _ _
    prevAddr := by simp [hp.devAddr]
    prevData := by simp [hp.devData] }

theorem SetUp.next (h : SetUp m a d k s) (hp : WriteLines a d .high s.ebc.pincfg) :
    SetUp m a d (k + 1) (s.advance e) := by
  obtain ⟨hpulse, hcycle, hmem⟩ := State.devStep_rest h.rest hp.pulseOff
  exact {
    rest := ⟨hpulse, hcycle⟩
    mem := hmem.trans h.mem
    ageA := by simpa [State.ageANow, hp.devAddr, h.prevAddr] using h.ageA
    ageD := by simpa [State.ageDNow, hp.devData, h.prevData] using h.ageD
    prevAddr := by simp [hp.devAddr]
    prevData := by simp [hp.devData] }

/-- The pulse starts, and is not bad if the operands have stood for `D_SETUP` cycles (R58(b)). -/
theorem Pulsing.first (h : SetUp m a d k s) (hk : s.par.dSetup ≤ k) (hp : WriteLines a d .low s.ebc.pincfg) :
    Pulsing m a d 1 (s.advance e) := by
  obtain ⟨⟨hpulse, hcycle⟩, hmem, hA, hD, _, _⟩ := h
  have hstep : s.devPulse s.devWriteCycle = s.devPulseStart s.devWriteCycle := State.devPulse_start hpulse hp.pulseOn
  constructor <;>
    simp [hstep, State.devPulseStart, hcycle, State.devWriteCycle_mem, hmem, hp.devAddr, hp.devData, hp.seenLow_OE]
  case pBad => omega

/-- It goes on with the operands held (R58(c)). -/
theorem Pulsing.next (h : Pulsing m a d k s) (hp : WriteLines a d .low s.ebc.pincfg) :
    Pulsing m a d (k + 1) (s.advance e) := by
  obtain ⟨hpulse, hcycle, hmem, hlen, hA, hD, hbad⟩ := h
  have hstep : s.devPulse s.devWriteCycle = s.devPulseBody s.devWriteCycle := State.devPulse_body hpulse hp.pulseOn
  constructor <;>
    simp [hstep, State.devPulseBody, hpulse, hcycle, State.devWriteCycle_mem, hmem, hlen, hA, hD, hbad, hp.devAddr,
      hp.devData, hp.seenLow_OE]

/-- Its end starts the write cycle, or commits if the cycle is one edge long (R58(d)). -/
theorem Committing.first (h : Pulsing m a d k s) (hk : s.par.dWp ≤ k) (hp : WriteLines a d .high s.ebc.pincfg) :
    Committing m a d 1 (s.advance e) := by
  obtain ⟨hpulse, hcycle, hmem, hlen, hA, hD, hbad⟩ := h
  have hstep : s.devPulse s.devWriteCycle = s.devPulseEnd s.devWriteCycle := State.devPulse_end hpulse hp.pulseOff
  by_cases hone : (s.par.dWc : Nat) = 1
  · constructor <;>
      simp [hstep, State.devPulseEnd_eq, State.pulseLatched, hone, hcycle, Device.commitMem, State.devWriteCycle_mem,
        hmem, hA, hD, hbad, hlen, hk]
  · have hlong : ¬ (s.par.dWc : Nat) ≤ 1 := by have := s.par.dWc.pos; omega
    constructor <;>
      simp [hstep, State.devPulseEnd_eq, State.pulseLatched, hone, hlong, hcycle, State.devWriteCycle_mem, hmem, hA, hD,
        hbad, hlen, hk]

/-- The write cycle runs down and commits on its last edge (R58(a)). -/
theorem Committing.next (h : Committing m a d k s) (hp : WriteLines a d .high s.ebc.pincfg) :
    Committing m a d (k + 1) (s.advance e) := by
  obtain ⟨hpulse, hcycle, hrunning, hwritten⟩ := h
  have hstep : s.devPulse s.devWriteCycle = s.devWriteCycle := State.devPulse_none hpulse hp.pulseOff
  constructor
  case inPulse => simp [hstep, hpulse]
  case wcLeft =>
    rw [State.advance_dev, State.devStep_wcLeft, hstep, State.devWriteCycle_wcLeft, hcycle, Nat.sub_sub]
    rfl
  case running =>
    intro hk
    have hleft : s.dev.wcLeft ≠ 1 := by simp at hk; omega
    obtain ⟨hA, hD, hok, hmem⟩ := hrunning (by simp at hk; omega)
    simp [hstep, State.devWriteCycle_mem, hleft, hA, hD, hok, hmem]
  case written =>
    intro hk
    simp only [State.advance_par] at hk
    rw [State.advance_dev, State.devStep_mem, hstep, State.devWriteCycle_mem, State.advance_par]
    by_cases hdone : (s.par.dWc : Nat) ≤ k
    · rw [if_neg (by omega), hwritten hdone]
    · obtain ⟨hA, hD, hok, hmem⟩ := hrunning (by omega)
      rw [if_pos (by omega)]
      simp only [Device.commitMem, hA, hD, hok, hmem]

end

/-- Under TP the three parts of a WRB write its byte to its cell, and the device is at rest again (R59(a)). -/
theorem write_flights {s t₂ t₃ t : State} {a d : Byte} (hr : s.atRest) (htp : TimingPremise s.par)
    (f₁ : Flight (WriteLines a d .high) s.par.nSettle s t₂) (f₂ : Flight (WriteLines a d .low) s.par.nPulse t₂ t₃)
    (f₃ : Flight (WriteLines a d .high) s.par.nRecover t₃ t) :
    t.atRest ∧ t.dev.mem = memWrite s.par.mem0 s.dev.mem a d := by
  obtain ⟨hsetup, hwp, hwc, _⟩ := htp
  have hpar₂ : t₂.par = s.par := f₁.took.1
  have hpar₃ : t₃.par = s.par := f₂.took.1.trans hpar₂
  have hpar : t.par = s.par := f₃.took.1.trans hpar₃
  have h₁ : SetUp s.dev.mem a d s.par.nSettle t₂ :=
    f₁.carries_from_first (fun e => SetUp.first e hr rfl) (fun _ _ e hp h => h.next e hp) s.par.nSettle.pos
  have h₂ : Pulsing s.dev.mem a d s.par.nPulse t₃ :=
    f₂.carries_from_first (fun e => Pulsing.first e h₁ (by rwa [hpar₂])) (fun _ _ e hp h => h.next e hp)
      s.par.nPulse.pos
  have h₃ : Committing s.dev.mem a d s.par.nRecover t :=
    f₃.carries_from_first (fun e => Committing.first e h₂ (by rwa [hpar₃])) (fun _ _ e hp h => h.next e hp)
      s.par.nRecover.pos
  have hdone : (t.par.dWc : Nat) ≤ s.par.nRecover := by rwa [hpar]
  exact ⟨⟨h₃.inPulse, by rw [h₃.wcLeft]; omega⟩, by rw [h₃.written hdone, hpar]⟩

/-! ## The stages of a read (R57) -/

/-- The address has stood on its lines, with CE̅ and OE̅ Low, for `k` cycles with no pulse. -/
structure Accessing (m : Memory) (a : Byte) (k : Nat) (s : State) : Prop where
  rest : s.atRest
  mem : s.dev.mem = m
  ageA : k ≤ s.dev.ageA
  ageS : k ≤ s.dev.ageS
  prevAddr : s.dev.prevAddr = some a

section
variable {s : State} {m : Memory} {a : Byte} {k : Nat} (e : Ebc)

theorem ReadLines.devAddr (h : ReadLines a s.ebc.pincfg) : s.devAddr = some a :=
  State.devAddr_of_lines h.1

theorem ReadLines.pulseOff (h : ReadLines a s.ebc.pincfg) : s.pulseOn = false := by
  obtain ⟨_, _, hWE, _, _⟩ := h
  exact State.pulseOn_of_highWE hWE

theorem ReadLines.ageSNow (h : ReadLines a s.ebc.pincfg) : s.ageSNow = s.dev.ageS + 1 := by
  obtain ⟨_, _, _, hOE, hCE⟩ := h
  simp [State.ageSNow, State.seenLow_of_low hOE, State.seenLow_of_low hCE]

theorem Accessing.first (hr : s.atRest) (hm : s.dev.mem = m) (hp : ReadLines a s.ebc.pincfg) :
    Accessing m a 1 (s.advance e) := by
  obtain ⟨hpulse, hcycle, hmem⟩ := State.devStep_rest hr hp.pulseOff
  exact {
    rest := ⟨hpulse, hcycle⟩
    mem := hmem.trans hm
    ageA := by simpa [State.ageANow, hp.devAddr] using ageOf_pos a _ _
    ageS := by simp [hp.ageSNow]
    prevAddr := by simp [hp.devAddr] }

theorem Accessing.next (h : Accessing m a k s) (hp : ReadLines a s.ebc.pincfg) :
    Accessing m a (k + 1) (s.advance e) := by
  obtain ⟨hpulse, hcycle, hmem⟩ := State.devStep_rest h.rest hp.pulseOff
  exact {
    rest := ⟨hpulse, hcycle⟩
    mem := hmem.trans h.mem
    ageA := by simpa [State.ageANow, hp.devAddr, h.prevAddr] using h.ageA
    ageS := by simpa [hp.ageSNow] using h.ageS
    prevAddr := by simp [hp.devAddr] }

/-- Bit i of what R_SAMPLE takes is the sample of IO`i` (R142). -/
theorem State.dataSampled_bit (s : State) (i : Fin 8) : s.dataSampled.getLsbD i = s.sample (pinIO i) := by
  have hplace : (fromDataLines (samplePins maskData s.sample)).getLsbD i =
      inMask (samplePins maskData s.sample) (pinIO i) := by
    simp [fromDataLines, inMask, pinIO, Nat.add_comm]
  rw [State.dataSampled, hplace, inMask_samplePins, inMask_data_IO, Bool.true_and]

/-- With the access time met, what R_SAMPLE takes is the addressed cell (R59(b)). -/
theorem Accessing.dataSampled (h : Accessing m a k s) (hk : s.par.dAcc ≤ k) (hp : ReadLines a s.ebc.pincfg) :
    s.dataSampled = s.cell a := by
  obtain ⟨_, hD, hWE, hOE, hCE⟩ := id hp
  have hA : s.par.dAcc ≤ s.ageANow := by
    have := h.ageA
    simp only [State.ageANow, hp.devAddr, h.prevAddr, ageOf_held]
    omega
  have hS : s.par.dAcc ≤ s.ageSNow := by
    have := h.ageS
    rw [hp.ageSNow]
    omega
  have hline : ∀ i, s.line (pinIO i) = if (s.cell a).getLsbD i then .high else .low := fun i =>
    deviceDrivesTheCell s a i (State.seenLow_of_low hCE) (State.seenLow_of_low hOE) (State.seenLow_of_high hWE) h.rest
      hp.devAddr hA hS (by rw [hD i]; rfl)
  refine BitVec.eq_of_getLsbD_eq fun i hi => ?_
  rw [s.dataSampled_bit ⟨i, hi⟩, State.sample, hline ⟨i, hi⟩]
  cases (s.cell a).getLsbD i <;> rfl

end

end Sys2Proof.Machine
end

section
/-! Reads return the latest write (spec/20_memory.md R59, R64 to R66, 42_bus_transfer.md R145): what a whole ENTW, ENTR,
WRB and RDB with quiet inputs does to a settled machine, and from these what a sequence of them does. -/

namespace Sys2Proof.Machine

/-! ## Pads that exclude a write pulse (R60) -/

/-- The pads exclude a write pulse on a board with `FLOAT_POLICY` `f`. -/
abbrev PulseExcluded (f : FloatPolicy) (p : Pins) : Prop :=
  passiveNet (pinAt p pinWE) = .high ∨ passiveNet (pinAt p pinCE) = .high ∨
    (f = .inert ∧ (passiveNet (pinAt p pinWE) = .float ∨ passiveNet (pinAt p pinCE) = .float))

theorem writeOff_iff (s : State) : s.writeOff ↔ PulseExcluded s.par.floatPolicy s.ebc.pincfg := Iff.rfl

theorem PulseExcluded.of_high {f : FloatPolicy} {p : Pins} (h : pinAt p pinWE = .output .high) : PulseExcluded f p :=
  .inl (by rw [h]; rfl)

/-- A flight beside such pads leaves the device at rest and the array alone. -/
theorem Flight.rest {n : Nat} {s t : State} {fp : FloatPolicy} (f : Flight (PulseExcluded fp) n s t)
    (hfp : s.par.floatPolicy = fp) (hr : s.atRest) : t.atRest ∧ t.dev.mem = s.dev.mem := by
  induction f with
  | here => exact ⟨hr, rfl⟩
  | @step s _ _ _ _ hC _ _ ih =>
    have hoff : s.writeOff := (writeOff_iff s).mpr (hfp ▸ hC)
    obtain ⟨hpulse, hcycle, hmem⟩ := State.devStep_rest hr (State.pulseOn_of_writeOff hoff)
    obtain ⟨hrest, hmem'⟩ := ih hfp ⟨hpulse, hcycle⟩
    exact ⟨hrest, hmem'.trans hmem⟩

/-! ## A settled machine -/

/-- Between two commands, with quiet inputs and TP: no fault, the pads in the row of the phase, the device at rest and
the array canonical. -/
structure State.Settled (s : State) : Prop where
  quiet : s.quiet
  ready : s.ebc.seq = .ready
  noFault : s.ebc.fault = false
  row : PhaseRow s.ebc.phase s.ebc.pincfg
  timing : TimingPremise s.par
  rest : s.atRest
  memory : Memory.wf s.par.mem0 s.dev.mem

section
variable {n : Nat} {s t : State} {i : Instr} {a d : Byte}

theorem State.cell_congr (hpar : t.par = s.par) (hmem : t.dev.mem = s.dev.mem) : SameCells s t := fun b => by
  rw [State.cell, State.cell, hpar, hmem]

/-- A command beside whose pads no pulse is on leaves the machine settled and the cells alone. -/
theorem State.Settled.exec_pulseless (h : s.Settled) (hoff : s.writeOff) (hn : n ≤ 8)
    (f : Flight (PulseExcluded s.par.floatPolicy) n (s.advance (s.accepted i)) t) (hseq : t.ebc.seq = .ready)
    (hfault : t.ebc.fault = false) (hrow : PhaseRow t.ebc.phase t.ebc.pincfg) :
    exec i s = .next t ∧ t.Settled ∧ SameCells s t := by
  obtain ⟨hpulse, hcycle, hmem⟩ := State.devStep_rest h.rest (State.pulseOn_of_writeOff hoff)
  obtain ⟨hrest, hmem'⟩ := f.rest rfl ⟨hpulse, hcycle⟩
  have hpar : t.par = s.par := f.took.1
  have hsame : t.dev.mem = s.dev.mem := hmem'.trans hmem
  refine ⟨exec_of_flight h.quiet h.ready f hseq (by omega), ?_, State.cell_congr hpar hsame⟩
  exact {
    quiet := f.quiet (quiet_advance h.quiet _)
    ready := hseq
    noFault := hfault
    row := hrow
    timing := by rw [hpar]; exact h.timing
    rest := hrest
    memory := by rw [hpar, hsame]; exact h.memory }

/-! ## Entering a phase -/

/-- The controls of an active phase: WE̅ driven High, OE̅ and CE̅ driven (41_bus_phase.md R125). -/
theorem State.Settled.activeControls (h : s.Settled) (hph : s.ebc.phase ≠ .idle) :
    pinAt s.ebc.pincfg pinWE = .output .high ∧ (pinAt s.ebc.pincfg pinOE).isOutput = true ∧
      (pinAt s.ebc.pincfg pinCE).isOutput = true := by
  cases hp : s.ebc.phase with
  | idle => exact absurd hp hph
  | writeActive =>
    obtain ⟨_, _, hWE, hOE, hCE⟩ := h.row.1 hp
    exact ⟨hWE, by rw [hOE]; rfl, by rw [hCE]; rfl⟩
  | readActive =>
    obtain ⟨_, _, hWE, hOE, hCE⟩ := h.row.2 hp
    exact ⟨hWE, by rw [hOE]; rfl, by rw [hCE]; rfl⟩

/-- ENTW and ENTR up to the first micro-state `q` of their entry sequences: none from IDLE, X_OE and X_CE from an active
phase (R124). -/
theorem State.Settled.leave (h : s.Settled) (hoff : s.writeOff) {q : Seq}
    (hacc : s.accepted i = (s.latched i).toPhaseChange fun e => { e with seq := q })
    (hnext : ∀ e, e.cmd = encode i → xCeNext e = some { e with seq := q }) :
    ∃ n u, n ≤ 2 ∧ Flight (PulseExcluded s.par.floatPolicy) n (s.advance (s.accepted i)) u ∧ u.Calm ∧
      u.ebc.seq = q ∧ u.ebc.fault = false ∧ PulseExcluded s.par.floatPolicy u.ebc.pincfg := by
  rcases (s.latched i).toPhaseChange_cases fun e => { e with seq := q } with ⟨_, hgo⟩ | ⟨hph, hgo⟩
  · rw [hacc, hgo]
    exact ⟨0, _, by omega, .here _, calm_accepted h.quiet, rfl, h.noFault, hoff⟩
  · obtain ⟨hWE, hOE, hCE⟩ := h.activeControls hph
    rw [hacc, hgo]
    have hcalm : (s.advance { s.latched i with seq := .xOe }).Calm := calm_accepted h.quiet
    obtain ⟨u, f, hu⟩ := leads_leave (C := PulseExcluded s.par.floatPolicy) hcalm rfl hOE hCE (.of_high hWE)
      (.of_high (by simpa using hWE)) (hnext _ rfl)
    refine ⟨2, u, by omega, f, hcalm.flight f (by rw [hu]) (by rw [hu]), by rw [hu], ?_, .of_high ?_⟩
    · rw [hu]
      exact h.noFault
    · rw [hu]
      simpa using hWE

theorem xCeNext_entw {e : Ebc} (h : e.cmd = encode .entw) : xCeNext e = some { e with seq := .ewCtl } := by
  have hop : opcodeOf (encode .entw) = 0x8#4 := Laws.EncodeOpcode.entw
  simp [xCeNext, h, hop]

theorem xCeNext_entr {e : Ebc} (h : e.cmd = encode .entr) : xCeNext e = some { e with seq := .erData } := by
  have hop : opcodeOf (encode .entr) = 0x9#4 := Laws.EncodeOpcode.entr
  simp [xCeNext, h, hop]

/-! ### The rows of R125 that the commands leave -/

section
variable {p : Pins}

theorem WritePins.row (h : WritePins p) : PhaseRow .writeActive p :=
  ⟨fun _ => h, nofun⟩

theorem EnteredWrite.row (h : EnteredWrite p) : PhaseRow .writeActive p := by
  obtain ⟨hA, hD, hcontrols⟩ := h
  exact WritePins.row ⟨fun i => by rw [hA i]; rfl, fun i => by rw [hD i]; rfl, hcontrols⟩

theorem WriteLines.row (h : WriteLines a d .high p) : PhaseRow .writeActive p := by
  obtain ⟨hA, hD, hcontrols⟩ := h
  exact WritePins.row ⟨fun i => by rw [hA i]; rfl, fun i => by rw [hD i]; rfl, hcontrols⟩

theorem EnteredRead.row (h : EnteredRead p) : PhaseRow .readActive p := by
  obtain ⟨hA, hD, hcontrols⟩ := h
  exact ⟨nofun, fun _ => ⟨fun i => by rw [hA i]; rfl, hD, hcontrols⟩⟩

end

/-- ENTW (R121). -/
theorem State.Settled.entw (h : s.Settled) (hoff : s.writeOff) :
    ∃ t, exec .entw s = .next t ∧ t.Settled ∧ t.ebc.phase = .writeActive ∧ SameCells s t := by
  obtain ⟨n, u, hn, f, hcalm, hseq, hfault, hpads⟩ := h.leave hoff (accepted_entw h.noFault) fun _ => xCeNext_entw
  obtain ⟨p, hp, t, f', ht⟩ := leads_enterWrite (C := PulseExcluded s.par.floatPolicy) hcalm hseq hpads
    fun _ hq => .of_high hq.1
  obtain ⟨hexec, hsettled, hcells⟩ := h.exec_pulseless hoff (by omega) (f.trans f') (by rw [ht]; rfl)
    (by rw [ht]; exact hfault) (by rw [ht]; exact hp.row)
  exact ⟨t, hexec, hsettled, by rw [ht]; rfl, hcells⟩

/-- ENTR (R122). -/
theorem State.Settled.entr (h : s.Settled) (hoff : s.writeOff) :
    ∃ t, exec .entr s = .next t ∧ t.Settled ∧ t.ebc.phase = .readActive ∧ SameCells s t := by
  obtain ⟨n, u, hn, f, hcalm, hseq, hfault, hpads⟩ := h.leave hoff (accepted_entr h.noFault) fun _ => xCeNext_entr
  obtain ⟨p, hp, t, f', ht⟩ := leads_enterRead (C := PulseExcluded s.par.floatPolicy) hcalm hseq hpads
    (by simpa [PulseExcluded] using hpads) fun _ _ hWE _ => .of_high hWE
  obtain ⟨hexec, hsettled, hcells⟩ := h.exec_pulseless hoff (by omega) (f.trans f') (by rw [ht]; rfl)
    (by rw [ht]; exact hfault) (by rw [ht]; exact hp.row)
  exact ⟨t, hexec, hsettled, by rw [ht]; rfl, hcells⟩

/-! ## Transfers -/

/-- WRB in WRITE_ACTIVE writes its byte to its cell and nothing else (R59(a), R65). -/
theorem State.Settled.wrb (h : s.Settled) (hph : s.ebc.phase = .writeActive) (a d : Byte) :
    ∃ t, exec (.wrb a d) s = .next t ∧ t.Settled ∧ t.ebc.phase = .writeActive ∧ t.ebc.rspStatus = .ok ∧
      ∀ b, t.cell b = if b = a then d else s.cell b := by
  have hp := h.row.1 hph
  obtain ⟨_, _, hWE, _, _⟩ := id hp
  obtain ⟨hpulse, hcycle, hmem⟩ := State.devStep_rest h.rest (State.pulseOn_of_highWE hWE)
  obtain ⟨t₁, t₂, t₃, t, hexec, f₁, f₂, f₃, f₄, hlines, ht⟩ := wrb_runs h.quiet h.ready h.noFault hph hp a d
  have hpar₁ : t₁.par = s.par := f₁.took.1
  have hpar : t.par = s.par := f₄.took.1.trans (f₃.took.1.trans (f₂.took.1.trans hpar₁))
  have hexcluded : ∀ q, WritePins q → PulseExcluded s.par.floatPolicy q := fun _ ⟨_, _, hWE, _⟩ => .of_high hWE
  obtain ⟨hrest₁, hmem₁⟩ := (f₁.mono hexcluded).rest rfl ⟨hpulse, hcycle⟩
  rw [← hpar₁] at f₂ f₃ f₄
  obtain ⟨hrest, hwrite⟩ := write_flights hrest₁ (by rw [hpar₁]; exact h.timing) f₂ f₃ f₄
  have hmem' : t.dev.mem = memWrite s.par.mem0 s.dev.mem a d := by
    rw [hwrite, hpar₁, hmem₁, State.advance_dev, hmem]
  have hphase : t.ebc.phase = .writeActive := by rw [ht]; exact hph
  refine ⟨t, hexec, ?_, hphase, by rw [ht]; rfl, fun b => ?_⟩
  · exact {
      quiet := f₄.quiet (f₃.quiet (f₂.quiet (f₁.quiet (quiet_advance h.quiet _))))
      ready := by rw [ht]; rfl
      noFault := by rw [ht]; exact h.noFault
      row := by rw [hphase]; exact hlines.row
      timing := by rw [hpar]; exact h.timing
      rest := hrest
      memory := by rw [hpar, hmem']; exact wf_memWrite h.memory a d }
  · rw [State.cell, hpar, hmem', memRead_memWrite h.memory.1, State.cell]

/-- RDB in READ_ACTIVE answers with the cell (R59(b)). -/
theorem State.Settled.rdb (h : s.Settled) (hph : s.ebc.phase = .readActive) (a : Byte) :
    ∃ t, exec (.rdb a) s = .next t ∧ t.ebc.rspStatus = .ok ∧ t.ebc.rspData = s.cell a := by
  have hp := h.row.2 hph
  obtain ⟨_, _, hWE, _, _⟩ := id hp
  obtain ⟨hpulse, hcycle, hmem⟩ := State.devStep_rest h.rest (State.pulseOn_of_highWE hWE)
  obtain ⟨t₁, t₂, t, hexec, f₁, f₂, f₃, _, _, ht⟩ := rdb_runs h.quiet h.ready h.noFault hph hp a
  have hpar₂ : t₂.par = s.par := f₂.took.1.trans f₁.took.1
  have hexcluded : ∀ q, ReadPins q → PulseExcluded s.par.floatPolicy q := fun _ ⟨_, _, hWE, _⟩ => .of_high hWE
  obtain ⟨hrest₁, hmem₁⟩ := (f₁.mono hexcluded).rest rfl ⟨hpulse, hcycle⟩
  have haccess : Accessing s.dev.mem a s.par.nAccess t₂ :=
    f₂.carries_from_first (fun e => Accessing.first e hrest₁ (hmem₁.trans hmem)) (fun _ _ e hq h => h.next e hq)
      s.par.nAccess.pos
  obtain ⟨_, _, _, htime⟩ := h.timing
  have hbyte : t₂.dataSampled = s.cell a := by
    rw [haccess.dataSampled (by rwa [hpar₂]) f₃.first, State.cell_congr hpar₂ haccess.mem]
  exact ⟨t, hexec, by rw [ht]; rfl, by rw [ht]; exact hbyte⟩

/-- Settles O44: with the pads in the row of WRITE_ACTIVE the machine is settled. -/
theorem wrbWritesExactlyItsCell : Obligations.WrbWritesExactlyItsCell := by
  intro s a d hq hs hf hph hp htp hr hm
  have hsettled : s.Settled := {
    quiet := hq
    ready := hs
    noFault := hf
    row := by rw [hph]; exact WritePins.row hp
    timing := htp
    rest := hr
    memory := hm }
  obtain ⟨t, hexec, ht, _, hstatus, hcells⟩ := hsettled.wrb hph a d
  exact ⟨t, hexec, hstatus, ht.rest, hcells⟩

/-! ## Sequences of commands -/

theorem commands_cons {is : List Instr} (h : exec i s = .next t) : commands (i :: is) s = commands is t := by
  simp [commands, h]

/-- In WRITE_ACTIVE a list of writes leaves in every cell the latest byte written to it (R64, R66). -/
theorem State.Settled.writes (ws : List (Byte × Byte)) (h : s.Settled) (hph : s.ebc.phase = .writeActive) :
    ∃ t, t.Settled ∧ t.ebc.phase = .writeActive ∧ (∀ b, t.cell b = latestWrite ws b (s.cell b)) ∧
      ∀ is, commands (ws.map (fun w => .wrb w.1 w.2) ++ is) s = commands is t := by
  induction ws generalizing s with
  | nil => exact ⟨s, h, hph, fun _ => rfl, fun _ => rfl⟩
  | cons w ws ih =>
    obtain ⟨u, hexec, hu, huph, _, hcell⟩ := h.wrb hph w.1 w.2
    obtain ⟨t, ht, htph, hcells, hrun⟩ := ih hu huph
    refine ⟨t, ht, htph, fun b => ?_, fun is => ?_⟩
    · rw [hcells, hcell, latestWrite]
      simp only [eq_comm]
    · rw [List.map_cons, List.cons_append, commands_cons hexec, hrun]

end

/-- Settles O47: ENTW keeps the cells, the writes leave the latest byte in each, ENTR keeps them, and RDB answers with
the one it names. -/
theorem readReturnsLatestWrite : Obligations.ReadReturnsLatestWrite := by
  intro s ws b hq hs hf hrow htp hr hoff hm
  obtain ⟨s₁, hentw, h₁, hph₁, hcells₁⟩ := State.Settled.entw ⟨hq, hs, hf, hrow, htp, hr, hm⟩ hoff
  obtain ⟨s₂, h₂, hph₂, hcells₂, hwrites⟩ := h₁.writes ws hph₁
  obtain ⟨_, _, hWE, _, _⟩ := h₂.row.1 hph₂
  obtain ⟨s₃, hentr, h₃, hph₃, hcells₃⟩ := h₂.entr ((writeOff_iff s₂).mpr (.of_high hWE))
  obtain ⟨t, hrdb, hstatus, hdata⟩ := h₃.rdb hph₃ b
  refine ⟨t, ?_, hstatus, ?_⟩
  · rw [List.cons_append, commands_cons hentw, hwrites, commands_cons hentr, commands_cons hrdb]
    rfl
  · rw [hdata, hcells₃, hcells₂, hcells₁]

end Sys2Proof.Machine
end

section
/-! The command words (spec/30_encoding.md R80 to R88). A comparison of a word under a mask is a comparison of the fields
that make up the mask, so the decoder is said once for each opcode, in the fields of R83 to R86. The encoder is read back
field by field, and the two directions of the round trip compare fields. -/

namespace Sys2Proof

/-! ## Masks and fields -/

/-- Ones on the `n` bits from bit `lo` up. -/
def fieldMask (lo n : Nat) : Word := (BitVec.allOnes n).setWidth 32 <<< lo

/-- Ones on each field of a list of fields, each given by its lowest bit and its width. -/
def fieldsMask : List (Nat × Nat) → Word
  | [] => 0
  | (lo, n) :: fs => fieldMask lo n ||| fieldsMask fs

theorem getLsbD_fieldMask {lo n j : Nat} (hj : j < 32) :
    (fieldMask lo n).getLsbD j = decide (lo ≤ j ∧ j < lo + n) := by
  by_cases hlo : lo ≤ j
  · simp [fieldMask, hj, hlo, Nat.sub_lt_iff_lt_add' hlo]
  · simp [fieldMask, hlo]

section
variable {w v : Word}

/-- Two words agree under a mask where they agree at each bit of the mask. -/
theorem and_eq_iff_bits {m : Word} :
    w &&& m = v &&& m ↔ ∀ j, m.getLsbD j = true → w.getLsbD j = v.getLsbD j := by
  constructor
  · intro h j hj
    simpa [hj] using congrArg (·.getLsbD j) h
  · intro h
    refine BitVec.eq_of_getLsbD_eq fun j _ => ?_
    cases hm : m.getLsbD j with
    | false => simp [hm]
    | true => simp [hm, h j hm]

/-- The mask of a field compares the field. -/
theorem and_fieldMask_eq_iff {lo n : Nat} :
    w &&& fieldMask lo n = v &&& fieldMask lo n ↔ w.extractLsb' lo n = v.extractLsb' lo n := by
  rw [and_eq_iff_bits]
  constructor
  · intro h
    ext j hj
    simp only [BitVec.getElem_extractLsb']
    by_cases h32 : lo + j < 32
    · exact h (lo + j) (by simp [getLsbD_fieldMask h32, hj])
    · simp [BitVec.getLsbD_of_ge, Nat.le_of_not_lt h32]
  · intro h j hm
    have h32 : j < 32 := BitVec.lt_of_getLsbD hm
    obtain ⟨hlo, hn⟩ : lo ≤ j ∧ j < lo + n := by simpa [getLsbD_fieldMask h32] using hm
    have hbit := congrArg (·.getLsbD (j - lo)) h
    simpa [Nat.add_sub_cancel' hlo, Nat.sub_lt_left_of_lt_add hlo hn] using hbit

/-- The mask of a list of fields compares each of them. -/
theorem and_fieldsMask_eq_iff (fs : List (Nat × Nat)) :
    w &&& fieldsMask fs = v &&& fieldsMask fs ↔ ∀ f ∈ fs, w.extractLsb' f.1 f.2 = v.extractLsb' f.1 f.2 := by
  induction fs with
  | nil => simp [fieldsMask]
  | cons f fs ih =>
    obtain ⟨lo, n⟩ := f
    rw [List.forall_mem_cons, ← ih, ← and_fieldMask_eq_iff]
    simp only [and_eq_iff_bits, fieldsMask, BitVec.getLsbD_or, Bool.or_eq_true, or_imp, forall_and]

/-- A row of R88, `w & mask = match`, in the fields of its mask. -/
theorem row_iff {mask m : Word} (fs : List (Nat × Nat)) (hmask : mask = fieldsMask fs := by decide)
    (hm : m = m &&& mask := by decide) :
    w &&& mask = m ↔ ∀ f ∈ fs, w.extractLsb' f.1 f.2 = m.extractLsb' f.1 f.2 := by
  rw [← and_fieldsMask_eq_iff, ← hmask, ← hm]

/-- Two words are equal where they agree in fields that cover the word. -/
theorem eq_of_fields (fs : List (Nat × Nat)) (h : ∀ f ∈ fs, w.extractLsb' f.1 f.2 = v.extractLsb' f.1 f.2)
    (hall : fieldsMask fs = BitVec.allOnes 32 := by decide) : w = v := by
  have hw := (and_fieldsMask_eq_iff fs).mpr h
  rwa [hall, BitVec.and_allOnes, BitVec.and_allOnes] at hw

/-! ## The rows of R88 in the fields of R83 -/

theorem pcfgRow_iff : w &&& 0xF3F80000#32 = 0x10000000#32 ↔ opcodeOf w = 0x1#4 ∧ w.extractLsb' 19 7 = 0 :=
  (row_iff [(28, 4), (19, 7)]).trans (by simp [opcodeOf])

theorem psetRow_iff : w &&& 0xF7FFFFE0#32 = 0x20000000#32 ↔ opcodeOf w = 0x2#4 ∧ w.extractLsb' 5 22 = 0 :=
  (row_iff [(28, 4), (5, 22)]).trans (by simp [opcodeOf])

theorem pgetRow_iff : w &&& 0xFFFFFFE0#32 = 0x30000000#32 ↔ opcodeOf w = 0x3#4 ∧ w.extractLsb' 5 23 = 0 :=
  (row_iff [(28, 4), (5, 23)]).trans (by simp [opcodeOf])

theorem wrbRow_iff : w &&& 0xFFFF0000#32 = 0xB0000000#32 ↔ opcodeOf w = 0xB#4 ∧ w.extractLsb' 16 12 = 0 :=
  (row_iff [(28, 4), (16, 12)]).trans (by simp [opcodeOf])

theorem rdbRow_iff : w &&& 0xFFFF00FF#32 = 0xC0000000#32 ↔
    opcodeOf w = 0xC#4 ∧ w.extractLsb' 16 12 = 0 ∧ w.extractLsb' 0 8 = 0 :=
  (row_iff [(28, 4), (16, 12), (0, 8)]).trans (by simp [opcodeOf])

/-- The rows of the commands without operands compare the whole word. -/
theorem bareRow_iff {m : Word} (hm : m.extractLsb' 0 28 = 0 := by decide) :
    w = m ↔ opcodeOf w = opcodeOf m ∧ w.extractLsb' 0 28 = 0 := by
  constructor
  · rintro rfl
    exact ⟨rfl, hm⟩
  · rintro ⟨hop, hrest⟩
    exact eq_of_fields [(28, 4), (0, 28)] (by simpa [opcodeOf, hm, hrest] using hop)

theorem prelRow_iff : w = 0x40000000#32 ↔ opcodeOf w = 0x4#4 ∧ w.extractLsb' 0 28 = 0 := bareRow_iff

theorem entwRow_iff : w = 0x80000000#32 ↔ opcodeOf w = 0x8#4 ∧ w.extractLsb' 0 28 = 0 := bareRow_iff

theorem entrRow_iff : w = 0x90000000#32 ↔ opcodeOf w = 0x9#4 ∧ w.extractLsb' 0 28 = 0 := bareRow_iff

theorem exitRow_iff : w = 0xA0000000#32 ↔ opcodeOf w = 0xA#4 ∧ w.extractLsb' 0 28 = 0 := bareRow_iff

/-! ## The decoder, by opcode (R81, R85 to R88) -/

/-- The decoder with each row of R88 in the fields of R83. -/
theorem decode_fields (w : Word) : decode w =
    if opcodeOf w = 0x1#4 ∧ w.extractLsb' 19 7 = 0 then
      .ok (.pcfg (w.extractLsb' 0 19) (modeOf (w.getLsbD 27)) (w.getLsbD 26))
    else if opcodeOf w = 0x2#4 ∧ w.extractLsb' 5 22 = 0 then
      if pinIndexLegal (w.extractLsb' 0 5) then .ok (.pset (w.extractLsb' 0 5) (.ofBit (w.getLsbD 27)))
      else .error .notAPin
    else if opcodeOf w = 0x3#4 ∧ w.extractLsb' 5 23 = 0 then
      if pinIndexLegal (w.extractLsb' 0 5) then .ok (.pget (w.extractLsb' 0 5)) else .error .notAPin
    else if opcodeOf w = 0x4#4 ∧ w.extractLsb' 0 28 = 0 then .ok .prel
    else if opcodeOf w = 0x8#4 ∧ w.extractLsb' 0 28 = 0 then .ok .entw
    else if opcodeOf w = 0x9#4 ∧ w.extractLsb' 0 28 = 0 then .ok .entr
    else if opcodeOf w = 0xA#4 ∧ w.extractLsb' 0 28 = 0 then .ok .exit
    else if opcodeOf w = 0xB#4 ∧ w.extractLsb' 16 12 = 0 then
      .ok (.wrb (w.extractLsb' 8 8) (w.extractLsb' 0 8))
    else if opcodeOf w = 0xC#4 ∧ w.extractLsb' 16 12 = 0 ∧ w.extractLsb' 0 8 = 0 then
      .ok (.rdb (w.extractLsb' 8 8))
    else if opcodeDefined (opcodeOf w) then .error .reservedBits
    else .error .undefinedOpcode := by
  simp only [decode, pcfgRow_iff, psetRow_iff, pgetRow_iff, prelRow_iff, entwRow_iff, entrRow_iff, exitRow_iff,
    wrbRow_iff, rdbRow_iff]

theorem decode_pcfg (h : opcodeOf w = 0x1#4) : decode w =
    if w.extractLsb' 19 7 = 0 then .ok (.pcfg (w.extractLsb' 0 19) (modeOf (w.getLsbD 27)) (w.getLsbD 26))
    else .error .reservedBits := by
  simp [decode_fields, h, opcodeDefined]

theorem decode_pset (h : opcodeOf w = 0x2#4) : decode w =
    if w.extractLsb' 5 22 = 0 then
      if pinIndexLegal (w.extractLsb' 0 5) then .ok (.pset (w.extractLsb' 0 5) (.ofBit (w.getLsbD 27)))
      else .error .notAPin
    else .error .reservedBits := by
  simp [decode_fields, h, opcodeDefined]

theorem decode_pget (h : opcodeOf w = 0x3#4) : decode w =
    if w.extractLsb' 5 23 = 0 then
      if pinIndexLegal (w.extractLsb' 0 5) then .ok (.pget (w.extractLsb' 0 5)) else .error .notAPin
    else .error .reservedBits := by
  simp [decode_fields, h, opcodeDefined]

theorem decode_prel (h : opcodeOf w = 0x4#4) :
    decode w = if w.extractLsb' 0 28 = 0 then .ok .prel else .error .reservedBits := by
  simp [decode_fields, h, opcodeDefined]

theorem decode_entw (h : opcodeOf w = 0x8#4) :
    decode w = if w.extractLsb' 0 28 = 0 then .ok .entw else .error .reservedBits := by
  simp [decode_fields, h, opcodeDefined]

theorem decode_entr (h : opcodeOf w = 0x9#4) :
    decode w = if w.extractLsb' 0 28 = 0 then .ok .entr else .error .reservedBits := by
  simp [decode_fields, h, opcodeDefined]

theorem decode_exit (h : opcodeOf w = 0xA#4) :
    decode w = if w.extractLsb' 0 28 = 0 then .ok .exit else .error .reservedBits := by
  simp [decode_fields, h, opcodeDefined]

theorem decode_wrb (h : opcodeOf w = 0xB#4) : decode w =
    if w.extractLsb' 16 12 = 0 then .ok (.wrb (w.extractLsb' 8 8) (w.extractLsb' 0 8))
    else .error .reservedBits := by
  simp [decode_fields, h, opcodeDefined]

theorem decode_rdb (h : opcodeOf w = 0xC#4) : decode w =
    if w.extractLsb' 16 12 = 0 ∧ w.extractLsb' 0 8 = 0 then .ok (.rdb (w.extractLsb' 8 8))
    else .error .reservedBits := by
  simp [decode_fields, h, opcodeDefined]

end

/-! ## The encoder, field by field (R83) -/

theorem opcodeOf_encode (i : Instr) : opcodeOf (encode i) = i.opcode := by
  cases i with
  | pcfg p m b => exact Laws.EncodeOpcode.pcfg p m b
  | pset n l => exact Laws.EncodeOpcode.pset n l
  | pget n => exact Laws.EncodeOpcode.pget n
  | prel => exact Laws.EncodeOpcode.prel
  | entw => exact Laws.EncodeOpcode.entw
  | entr => exact Laws.EncodeOpcode.entr
  | exit => exact Laws.EncodeOpcode.exit
  | wrb a d => exact Laws.EncodeOpcode.wrb a d
  | rdb a => exact Laws.EncodeOpcode.rdb a

section
open Machine (extract_field_same extract_field_disjoint getLsbD_eq_of_extract)

theorem extract_bit (w : Word) (n : Nat) : w.extractLsb' n 1 = BitVec.ofBool (w.getLsbD n) := by
  ext j hj
  obtain rfl : j = 0 := by omega
  simp

section
variable (p : PinMask) (m : Mode) (b : Bool) (n : BitVec 5) (l : Level) (a d : Byte)

/-! Each word as its fields, each shifted to its place. -/

theorem encode_pcfg_fields :
    encode (.pcfg p m b) = (0x1#4).setWidth 32 <<< 28 ||| (BitVec.ofBool (modeBit m)).setWidth 32 <<< 27
      ||| (BitVec.ofBool b).setWidth 32 <<< 26 ||| p.setWidth 32 <<< 0 := by
  simp [encode, bitAt]

theorem encode_pset_fields :
    encode (.pset n l) = (0x2#4).setWidth 32 <<< 28 ||| (BitVec.ofBool l.bit).setWidth 32 <<< 27
      ||| n.setWidth 32 <<< 0 := by
  simp [encode, bitAt]

theorem encode_pget_fields : encode (.pget n) = (0x3#4).setWidth 32 <<< 28 ||| n.setWidth 32 <<< 0 := by
  simp [encode]

theorem encode_wrb_fields :
    encode (.wrb a d) = (0xB#4).setWidth 32 <<< 28 ||| a.setWidth 32 <<< 8 ||| d.setWidth 32 <<< 0 := by
  simp [encode]

theorem encode_rdb_fields : encode (.rdb a) = (0xC#4).setWidth 32 <<< 28 ||| a.setWidth 32 <<< 8 := by
  simp [encode]

/-! What each field of a word reads as; the reserved bits of R86 read as zeros. -/

theorem encode_pcfg_extract :
    (encode (.pcfg p m b)).extractLsb' 27 1 = BitVec.ofBool (modeBit m) ∧
      (encode (.pcfg p m b)).extractLsb' 26 1 = BitVec.ofBool b ∧
      (encode (.pcfg p m b)).extractLsb' 19 7 = 0 ∧ (encode (.pcfg p m b)).extractLsb' 0 19 = p := by
  rw [encode_pcfg_fields]
  simp [-BitVec.shiftLeft_zero, BitVec.extractLsb'_or, extract_field_same, extract_field_disjoint]

theorem encode_pset_extract :
    (encode (.pset n l)).extractLsb' 27 1 = BitVec.ofBool l.bit ∧ (encode (.pset n l)).extractLsb' 5 22 = 0 ∧
      (encode (.pset n l)).extractLsb' 0 5 = n := by
  rw [encode_pset_fields]
  simp [-BitVec.shiftLeft_zero, BitVec.extractLsb'_or, extract_field_same, extract_field_disjoint]

theorem encode_pget_extract :
    (encode (.pget n)).extractLsb' 5 23 = 0 ∧ (encode (.pget n)).extractLsb' 0 5 = n := by
  rw [encode_pget_fields]
  simp [-BitVec.shiftLeft_zero, BitVec.extractLsb'_or, extract_field_same, extract_field_disjoint]

theorem encode_wrb_extract :
    (encode (.wrb a d)).extractLsb' 16 12 = 0 ∧ (encode (.wrb a d)).extractLsb' 8 8 = a ∧
      (encode (.wrb a d)).extractLsb' 0 8 = d := by
  rw [encode_wrb_fields]
  simp [-BitVec.shiftLeft_zero, BitVec.extractLsb'_or, extract_field_same, extract_field_disjoint]

theorem encode_rdb_extract :
    (encode (.rdb a)).extractLsb' 16 12 = 0 ∧ (encode (.rdb a)).extractLsb' 8 8 = a ∧
      (encode (.rdb a)).extractLsb' 0 8 = 0 := by
  rw [encode_rdb_fields]
  simp [-BitVec.shiftLeft_zero, BitVec.extractLsb'_or, extract_field_same, extract_field_disjoint]

end

/-! ## The round trip (R88) -/

theorem Instr.wellFormed_pset (n : BitVec 5) (l : Level) : (Instr.pset n l).wellFormed = pinIndexLegal n := rfl
theorem Instr.wellFormed_pget (n : BitVec 5) : (Instr.pget n).wellFormed = pinIndexLegal n := rfl

@[simp] theorem modeOf_modeBit (m : Mode) : modeOf (modeBit m) = m := by cases m <;> rfl
@[simp] theorem modeBit_modeOf (b : Bool) : modeBit (modeOf b) = b := by cases b <;> rfl
@[simp] theorem Level.ofBit_bit (l : Level) : Level.ofBit l.bit = l := by cases l <;> rfl
@[simp] theorem Level.bit_ofBit (b : Bool) : (Level.ofBit b).bit = b := by cases b <;> rfl

/-- Settles O1: the word has the command's opcode, so its row of the decoder reads the fields that the encoder wrote. -/
theorem decodeInvertsEncode : Obligations.DecodeInvertsEncode := by
  intro i hwf
  have hop := opcodeOf_encode i
  cases i with
  | pcfg p m b =>
    obtain ⟨hm, hb, hres, hp⟩ := encode_pcfg_extract p m b
    rw [decode_pcfg hop, if_pos hres, hp, getLsbD_eq_of_extract hm, getLsbD_eq_of_extract hb, modeOf_modeBit]
  | pset n l =>
    obtain ⟨hl, hres, hn⟩ := encode_pset_extract n l
    rw [decode_pset hop, if_pos hres, hn, if_pos (Instr.wellFormed_pset n l ▸ hwf),
      getLsbD_eq_of_extract hl, Level.ofBit_bit]
  | pget n =>
    obtain ⟨hres, hn⟩ := encode_pget_extract n
    rw [decode_pget hop, if_pos hres, hn, if_pos (Instr.wellFormed_pget n ▸ hwf)]
  | prel => rw [decode_prel hop, if_pos (by decide)]
  | entw => rw [decode_entw hop, if_pos (by decide)]
  | entr => rw [decode_entr hop, if_pos (by decide)]
  | exit => rw [decode_exit hop, if_pos (by decide)]
  | wrb a d =>
    obtain ⟨hres, ha, hd⟩ := encode_wrb_extract a d
    rw [decode_wrb hop, if_pos hres, ha, hd]
  | rdb a =>
    obtain ⟨hres, ha, hlow⟩ := encode_rdb_extract a
    rw [decode_rdb hop, if_pos ⟨hres, hlow⟩, ha]

/-- Settles O2: a decoded word has its command's opcode and zeros in the reserved bits, and its other fields are the
operands, so it agrees with the command's word in every field. -/
theorem encodeInvertsDecode : Obligations.EncodeInvertsDecode := by
  intro w i h
  have hop := opcodeOf_of_decode h
  have hsame : (encode i).extractLsb' 28 4 = w.extractLsb' 28 4 := (opcodeOf_encode i).trans hop.symm
  cases i with
  | pcfg p m b =>
    rw [decode_pcfg hop] at h
    split_ifs at h with hres
    obtain ⟨hp, hm, hb⟩ := Instr.pcfg.inj (Except.ok.inj h)
    have hmode : w.extractLsb' 27 1 = BitVec.ofBool (modeBit m) := by rw [extract_bit, ← hm, modeBit_modeOf]
    have hinit : w.extractLsb' 26 1 = BitVec.ofBool b := by rw [extract_bit, hb]
    exact ⟨eq_of_fields [(28, 4), (27, 1), (26, 1), (19, 7), (0, 19)]
      (by simp [hsame, encode_pcfg_extract, hmode, hinit, hres, hp]), rfl⟩
  | pset n l =>
    rw [decode_pset hop] at h
    split_ifs at h with hres hpin
    obtain ⟨hn, hl⟩ := Instr.pset.inj (Except.ok.inj h)
    have hlevel : w.extractLsb' 27 1 = BitVec.ofBool l.bit := by rw [extract_bit, ← hl, Level.bit_ofBit]
    exact ⟨eq_of_fields [(28, 4), (27, 1), (5, 22), (0, 5)]
      (by simp [hsame, encode_pset_extract, hlevel, hres, hn]), hn ▸ hpin⟩
  | pget n =>
    rw [decode_pget hop] at h
    split_ifs at h with hres hpin
    have hn := Instr.pget.inj (Except.ok.inj h)
    exact ⟨eq_of_fields [(28, 4), (5, 23), (0, 5)] (by simp [hsame, encode_pget_extract, hres, hn]), hn ▸ hpin⟩
  | prel =>
    rw [decode_prel hop] at h
    split_ifs at h with hres
    exact ⟨(prelRow_iff.mpr ⟨hop, hres⟩).symm, rfl⟩
  | entw =>
    rw [decode_entw hop] at h
    split_ifs at h with hres
    exact ⟨(entwRow_iff.mpr ⟨hop, hres⟩).symm, rfl⟩
  | entr =>
    rw [decode_entr hop] at h
    split_ifs at h with hres
    exact ⟨(entrRow_iff.mpr ⟨hop, hres⟩).symm, rfl⟩
  | exit =>
    rw [decode_exit hop] at h
    split_ifs at h with hres
    exact ⟨(exitRow_iff.mpr ⟨hop, hres⟩).symm, rfl⟩
  | wrb a d =>
    rw [decode_wrb hop] at h
    split_ifs at h with hres
    obtain ⟨ha, hd⟩ := Instr.wrb.inj (Except.ok.inj h)
    exact ⟨eq_of_fields [(28, 4), (16, 12), (8, 8), (0, 8)]
      (by simp [hsame, encode_wrb_extract, hres, ha, hd]), rfl⟩
  | rdb a =>
    rw [decode_rdb hop] at h
    split_ifs at h with hres
    have ha := Instr.rdb.inj (Except.ok.inj h)
    exact ⟨eq_of_fields [(28, 4), (16, 12), (8, 8), (0, 8)]
      (by simp [hsame, encode_rdb_extract, hres, ha]), rfl⟩

end

/-! ## The ILLEGAL words (R85 to R87) -/

/-- "Index values 19–31 are not pins" (R85). -/
theorem pinIndexLegal_of_ge {n : BitVec 5} (h : 19 ≤ n.toNat) : pinIndexLegal n = false :=
  decide_eq_false (by omega)

theorem legal_of_error {w : Word} {r : DecodeReject} (h : decode w = .error r) : legal w = false := by
  rw [legal, h]
  rfl

/-- Settles O3: each clause is the branch of its opcode's decoder that refuses the word. -/
theorem reservedBitsAndPinsIllegal : Obligations.ReservedBitsAndPinsIllegal := by
  intro w
  refine ⟨?pin, fun hop hres => legal_of_error ((decode_pcfg hop).trans (if_neg hres)),
    fun hop hres => legal_of_error ((decode_pset hop).trans (if_neg hres)),
    fun hop hres => legal_of_error ((decode_pget hop).trans (if_neg hres)),
    fun hop hres => legal_of_error ((decode_rdb hop).trans (if_neg (not_and_or.mpr hres))),
    fun hop hres => legal_of_error ((decode_wrb hop).trans (if_neg hres)), ?bare⟩
  case pin =>
    rintro (hop | hop) hn
    · rw [legal, decode_pset hop, pinIndexLegal_of_ge hn]
      split <;> rfl
    · rw [legal, decode_pget hop, pinIndexLegal_of_ge hn]
      split <;> rfl
  case bare =>
    rintro (hop | hop | hop | hop) hres
    · exact legal_of_error ((decode_prel hop).trans (if_neg hres))
    · exact legal_of_error ((decode_entw hop).trans (if_neg hres))
    · exact legal_of_error ((decode_entr hop).trans (if_neg hres))
    · exact legal_of_error ((decode_exit hop).trans (if_neg hres))

/-- A word is refused as undefined exactly where no row has its opcode: a row's opcode is defined, so the last line of
the decoder, which names the refusal, is reached by every undefined opcode and by no other. -/
theorem decode_undefined_iff (w : Word) :
    decode w = .error .undefinedOpcode ↔ opcodeDefined (opcodeOf w) = false := by
  cases hdef : opcodeDefined (opcodeOf w) with
  | true =>
    simp only [decode_fields, hdef]
    split_ifs <;> simp
  | false =>
    have hne {op : BitVec 4} (hop : opcodeDefined op = true) : opcodeOf w ≠ op := by
      rintro rfl
      exact Bool.false_ne_true (hdef.symm.trans hop)
    simp (disch := decide) [decode_fields, hdef, hne]

/-- Settles O4: of the sixteen opcodes those seven are the ones that are not defined. -/
theorem undefinedOpcodesNamed : Obligations.UndefinedOpcodesNamed := by
  have hseven : ∀ op : BitVec 4, opcodeDefined op = false ↔ op = 0x0#4 ∨ op = 0x5#4 ∨ op = 0x6#4 ∨ op = 0x7#4 ∨
      op = 0xD#4 ∨ op = 0xE#4 ∨ op = 0xF#4 := by decide
  exact fun w => (decode_undefined_iff w).trans (hseven _)

/-- Settles O5: nine closed words, which the decoder evaluates. -/
theorem tableWordsDecode : Obligations.TableWordsDecode := by
  unfold Obligations.TableWordsDecode
  decide

end Sys2Proof
end

section
/-! The assembler (spec/30_encoding.md R93 to R95): every command that a line is read as is well formed, because a pin
operand is never above 18, and a well-formed command's word decodes to it. -/

namespace Sys2Proof.Machine

/-- The value of a symbol stands in the list. -/
theorem symbolIn_mem {α : Type} {l : List (List Char × α)} {t : List Char} {v : α} (h : symbolIn l t = some v) :
    (t, v) ∈ l := by
  induction l with
  | nil => simp [symbolIn] at h
  | cons p l ih =>
    obtain ⟨name, u⟩ := p
    unfold symbolIn at h
    split at h
    next ht =>
      subst ht
      obtain rfl := Option.some.inj h
      exact List.mem_cons_self
    next => exact List.mem_cons_of_mem _ (ih h)

/-- The pin symbols name pins. -/
theorem pinSymbols_le : ∀ p ∈ pinSymbols, p.2 ≤ 18 := by decide

theorem boundedNumber_le {top n : Nat} {t : List Char} (h : boundedNumber top t = .ok n) : n ≤ top := by
  unfold boundedNumber at h
  split at h
  · split at h
    · obtain rfl := Except.ok.inj h
      assumption
    · cases h
  · cases h

theorem pinIndexLegal_ofNat {k : Nat} (h : k ≤ 18) : pinIndexLegal (BitVec.ofNat 5 k) = true := by
  simp only [pinIndexLegal, BitVec.toNat_ofNat, decide_eq_true_eq]
  omega

/-- "An assembler … refuses a pin index 19–31" (R94). -/
theorem pinOperand_legal {t : List Char} {n : BitVec 5} (h : pinOperand t = .ok n) : pinIndexLegal n = true := by
  unfold pinOperand at h
  split at h
  next k hk =>
    obtain rfl := Except.ok.inj h
    exact pinIndexLegal_ofNat (pinSymbols_le _ (symbolIn_mem hk))
  next =>
    cases hb : boundedNumber 18 t with
    | ok k =>
      rw [hb] at h
      obtain rfl := Except.ok.inj h
      exact pinIndexLegal_ofNat (boundedNumber_le hb)
    | error e =>
      rw [hb] at h
      cases h

/-- A reading step that answers had an answer to go on from. -/
theorem bind_ok {α β : Type} {x : Except AsmError α} {f : α → Except AsmError β} {b : β} (h : x >>= f = .ok b) :
    ∃ a, x = .ok a ∧ f a = .ok b := by
  cases x with
  | ok a => exact ⟨a, rfl, h⟩
  | error e => cases h

/-- Every command that the assembler reads is well formed: only PSET and PGET can fail to be, and theirs is a pin
operand. -/
theorem parseCommand_wellFormed {name : List Char} {args : List (List Char)} {i : Instr}
    (h : parseCommand name args = .ok i) : i.wellFormed = true := by
  unfold parseCommand at h
  split_ifs at h with pcfg pset pget prel _ entw _ entr _ exit _ wrb rdb
  · split at h
    · obtain ⟨_, _, h⟩ := bind_ok h
      obtain ⟨_, _, h⟩ := bind_ok h
      obtain rfl := Except.ok.inj h
      rfl
    · cases h
  · split at h
    · obtain ⟨n, hn, h⟩ := bind_ok h
      obtain ⟨l, _, h⟩ := bind_ok h
      obtain rfl := Except.ok.inj h
      exact pinOperand_legal hn
    · cases h
  · split at h
    · obtain ⟨n, hn, h⟩ := bind_ok h
      obtain rfl := Except.ok.inj h
      exact pinOperand_legal hn
    · cases h
  · obtain rfl := Except.ok.inj h
    rfl
  · obtain rfl := Except.ok.inj h
    rfl
  · obtain rfl := Except.ok.inj h
    rfl
  · obtain rfl := Except.ok.inj h
    rfl
  · split at h
    · obtain ⟨_, _, h⟩ := bind_ok h
      obtain ⟨_, _, h⟩ := bind_ok h
      obtain rfl := Except.ok.inj h
      rfl
    · cases h
  · split at h
    · obtain ⟨_, _, h⟩ := bind_ok h
      obtain rfl := Except.ok.inj h
      rfl
    · cases h

theorem map_ok {α β : Type} {x : Except AsmError α} {f : α → β} {b : β} (h : x.map f = .ok b) :
    ∃ a, x = .ok a ∧ f a = b := by
  cases x with
  | ok a => exact ⟨a, rfl, Except.ok.inj h⟩
  | error e => cases h

theorem parseLine_wellFormed {line : String} {i : Instr} (h : parseLine line = .ok (some i)) :
    i.wellFormed = true := by
  unfold parseLine at h
  split at h
  · cases h
  · obtain ⟨j, hj, heq⟩ := map_ok h
    obtain rfl := Option.some.inj heq
    exact parseCommand_wellFormed hj

/-- Settles O6: the line's word is the word of a well-formed command, and such a word decodes to its command. -/
theorem assembledWordsAreLegal : Obligations.AssembledWordsAreLegal := by
  intro line w h
  obtain ⟨o, hline, hw⟩ := map_ok h
  obtain ⟨i, rfl, rfl⟩ := Option.map_eq_some_iff.mp hw
  exact ⟨i, hline, decodeInvertsEncode i (parseLine_wellFormed hline)⟩

end Sys2Proof.Machine
end

section
/-! The step (spec/30_encoding.md R89, R92): a step that accepts a legal word runs its command, which is that word's
accepting edge and then edges until READY; every other step is one edge. -/

namespace Sys2Proof.Machine

/-! ## Steps that accept a word -/

/-- Settles O11: the step's other case, one edge, is there for ILLEGAL words and for no word. -/
theorem stepRunsDecodedCommand : Obligations.StepRunsDecodedCommand := by
  intro s i hr hv hd
  rcases step_cases s with ⟨_, _, j, hj, hstep⟩ | ⟨hill, _⟩
  · obtain rfl : j = i := Except.ok.inj (hj.symm.trans hd)
    exact hstep
  · have hlegal : legal s.input.cmdWord = true := by simp [legal, hd, Except.toBool]
    exact absurd ((hill hr hv).symm.trans hlegal) Bool.false_ne_true

section
variable (s : State) (i : Instr)

/-- A placed word meets `cmd_ready`. -/
theorem withFetchWord_cmdReady (nbits w : Nat) : (s.withFetchWord nbits w).cmdReady = true :=
  (cmdReady_iff _).mpr ⟨State.atEdge_ready rfl, rfl, rfl⟩

theorem withFetchWord_cmdValid (nbits w : Nat) : (s.withFetchWord nbits w).input.cmdValid = true := rfl

/-- A 32-bit word is placed as it is. -/
theorem withFetchWord_cmdWord (w : Word) : (s.withFetchWord 32 w.toNat).input.cmdWord = w := by
  have hplaced : (s.withFetchWord 32 w.toNat).input.cmdWord = BitVec.ofNat 32 (w.toNat % 2 ^ 32) := rfl
  rw [hplaced, Nat.mod_eq_of_lt w.isLt, BitVec.ofNat_toNat, BitVec.setWidth_eq]

end

/-- Settles O12: the placed word is presented with `cmd_ready`, and it decodes to the command. -/
theorem placedWordRuns : Obligations.PlacedWordRuns := by
  intro s i hwf
  refine stepRunsDecodedCommand _ i (withFetchWord_cmdReady s 32 _) (withFetchWord_cmdValid s 32 _) ?_
  rw [withFetchWord_cmdWord]
  exact decodeInvertsEncode i hwf

/-- The first check (R90) turns an ILLEGAL command away, whatever its acceptance would do. -/
theorem passChecks_illegal {e : Ebc} {w : Word} (go : Ebc → Ebc) :
    ((e.openEdge false).latch w).passChecks false go = e.turnedAway w .illegal := by
  simp [Ebc.passChecks, Ebc.answerIllegal, Ebc.respond, Ebc.latch, Ebc.openEdge, Ebc.turnedAway]

/-- Settles O29: the acceptance's first check answers ILLEGAL, which ends the command on its accepting edge. -/
theorem noPinAnsweredIllegal : Obligations.NoPinAnsweredIllegal := by
  intro s n l hr hn
  have hpset : acceptInstr (.pset n l) ((s.atEdge.openEdge false).latch (encode (.pset n l))) =
      s.atEdge.turnedAway (encode (.pset n l)) .illegal := by
    rw [acceptInstr, acceptPset, pinIndexLegal_of_ge hn, passChecks_illegal]
  have hpget : acceptInstr (.pget n) ((s.atEdge.openEdge false).latch (encode (.pget n))) =
      s.atEdge.turnedAway (encode (.pget n)) .illegal := by
    rw [acceptInstr, acceptPget, pinIndexLegal_of_ge hn, passChecks_illegal]
  constructor
  · rw [exec_at_acceptance hr (by rw [hpset]; rfl), hpset]
  · rw [exec_at_acceptance hr (by rw [hpget]; rfl), hpget]

/-! ## Steps as edges -/

section
variable {s : State}

/-- A run to READY is a number of edges, whether it goes on or stops. -/
theorem runToReady_eq_edges (n : Nat) (s : State) : ∃ k, runToReady n s = edges k s := by
  induction n generalizing s with
  | zero => exact ⟨0, rfl⟩
  | succ n ih =>
    by_cases hs : s.atEdge.seq = .ready
    · exact ⟨0, runToReady_ready hs _⟩
    · cases he : edge s with
      | next t =>
        obtain ⟨k, hk⟩ := ih t
        exact ⟨k + 1, by rw [runToReady_succ hs he, hk, edges_succ_of_next he]⟩
      | fault f => exact ⟨1, by simp [runToReady, edges, hs, he]⟩
      | refused r => exact ⟨1, by simp [runToReady, edges, hs, he]⟩

theorem edges_one (s : State) : edges 1 s = edge s := by
  cases he : edge s <;> simp [edges, he]

/-- The accepting edge of a legal word is the accepting edge of its command: the word is the command's own. -/
theorem edge_eq_acceptEdge {i : Instr} (hr : s.cmdReady = true) (hv : s.input.cmdValid = true)
    (hd : decode s.input.cmdWord = .ok i) : edge s = .next (acceptEdge (encode i) (acceptInstr i) s) := by
  obtain ⟨hw, _⟩ := encodeInvertsDecode _ i hd
  rw [edge_accepts hr hv, accept_ok hd, acceptEdge, hw]

/-- A step is a whole number of edges, at least one. -/
theorem step_eq_edges (s : State) : ∃ n, 1 ≤ n ∧ step s = edges n s := by
  rcases step_cases s with ⟨hr, hv, i, hd, hstep⟩ | ⟨_, hstep⟩
  · obtain ⟨k, hk⟩ := runToReady_eq_edges (acceptEdge (encode i) (acceptInstr i) s).edgeBound
      (acceptEdge (encode i) (acceptInstr i) s)
    refine ⟨k + 1, Nat.le_add_left 1 k, ?_⟩
    rw [hstep, exec_ready hr, hk, edges_succ_of_next (edge_eq_acceptEdge hr hv hd)]
  · exact ⟨1, le_refl 1, hstep.trans (edges_one s).symm⟩

end

/-- Settles O13: a step and that many edges are one result, so they go on alike and stop alike. -/
theorem stepIsEdges : Obligations.StepIsEdges := by
  refine ⟨fun s t h => ?_, fun s f h => ?_⟩
  all_goals
    obtain ⟨n, hn, heq⟩ := step_eq_edges s
    exact ⟨n, hn, heq ▸ h⟩

end Sys2Proof.Machine
end

section
/-! Responses (spec/30_encoding.md R91): `RSP_VALID` opens every edge at 0, and an action of the EBC sets it exactly where
it leaves `SEQ` at READY. So an edge that ends a command, and no other, answers. -/

namespace Sys2Proof.Machine

/-- The registers carry a response exactly where they stand at READY: what an acceptance or a micro-state leaves. -/
def Ebc.AnsweredAtReady (e : Ebc) : Prop := e.rspValid = true ↔ e.seq = .ready

section
variable {e e' : Ebc} {x : EdgeCtx}

/-! ## The ways an action can end -/

/-- A command that ends leaves its response. -/
theorem Ebc.AnsweredAtReady.ends (hv : e.rspValid = true) (hs : e.seq = .ready) : e.AnsweredAtReady :=
  iff_of_true hv hs

/-- A command that goes on leaves none. -/
theorem Ebc.AnsweredAtReady.goesOn (hv : e.rspValid = false) (hs : e.seq ≠ .ready) : e.AnsweredAtReady :=
  iff_of_false (by simp [hv]) hs

theorem Ebc.AnsweredAtReady.raiseFault (cause : Status) (q : BitVec 5) : (e.raiseFault cause q).AnsweredAtReady :=
  .ends rfl rfl

theorem Ebc.AnsweredAtReady.complete (d : Byte) : (e.complete d).AnsweredAtReady := .ends rfl rfl

/-! ## Acceptance -/

theorem Ebc.AnsweredAtReady.passChecks {isLegal : Bool} {go : Ebc → Ebc} (h : (go e).AnsweredAtReady) :
    (e.passChecks isLegal go).AnsweredAtReady := by
  rcases Ebc.passChecks_cases (e := e) isLegal go with ⟨_, hc⟩ | ⟨_, _, hc⟩ | ⟨_, _, hc⟩ <;> rw [hc]
  · exact .ends rfl rfl
  · exact .ends rfl rfl
  · exact h

theorem Ebc.AnsweredAtReady.toPinExec (hv : e.rspValid = false) : e.toPinExec.AnsweredAtReady := by
  rcases Ebc.toPinExec_cases (e := e) with ⟨_, hc⟩ | ⟨_, hc⟩ <;> rw [hc]
  · exact .goesOn hv (by simp)
  · exact .raiseFault _ _

theorem Ebc.AnsweredAtReady.toPhaseChange {fromIdle : Ebc → Ebc} (hv : e.rspValid = false)
    (h : (fromIdle e).AnsweredAtReady) : (e.toPhaseChange fromIdle).AnsweredAtReady := by
  rcases Ebc.toPhaseChange_cases (e := e) fromIdle with ⟨_, hc⟩ | ⟨_, hc⟩ <;> rw [hc]
  · exact h
  · exact .goesOn hv (by simp)

theorem acceptInstr_answeredAtReady (hv : e.rspValid = false) (i : Instr) : (acceptInstr i e).AnsweredAtReady := by
  cases i with
  | pcfg | pset | pget => exact .passChecks (.toPinExec hv)
  | prel => exact .goesOn hv (by simp [acceptInstr, acceptPrel])
  | entw => exact .passChecks (.toPhaseChange hv (.goesOn hv (by simp)))
  | entr => exact .passChecks (.toPhaseChange hv (.goesOn hv (by simp)))
  | exit => exact .passChecks (.toPhaseChange hv (.complete 0))
  | wrb a d =>
    refine .passChecks ?_
    split
    · exact .goesOn hv (by simp)
    · exact .raiseFault _ _
  | rdb a =>
    refine .passChecks ?_
    split
    · exact .goesOn hv (by simp)
    · exact .raiseFault _ _

theorem accept_answeredAtReady (hv : e.rspValid = false) (w : Word) : (accept w e).AnsweredAtReady := by
  cases hd : decode w with
  | ok i =>
    rw [accept_ok hd]
    exact acceptInstr_answeredAtReady (e := e.latch w) hv i
  | error r =>
    rw [accept_error hd]
    exact .ends rfl rfl

/-! ## Micro-states -/

/-- A primitive's fault ends the command, so only its success matters. -/
theorem Ebc.AnsweredAtReady.afterPins {α : Type} {r : Except PinFault α} {k : α → Ebc}
    (hk : ∀ a, (k a).AnsweredAtReady) : (e.afterPins r k).AnsweredAtReady := by
  cases r with
  | ok a => exact hk a
  | error f => exact .raiseFault _ _

theorem Ebc.AnsweredAtReady.delay {par : Params} {act : Ebc → Ebc} (hv : e.rspValid = false) (hs : e.seq ≠ .ready)
    (hact : (act e).AnsweredAtReady) : (delayState par act e).AnsweredAtReady := by
  unfold delayState
  split
  · exact hact
  · exact .goesOn hv hs

theorem pExec_answeredAtReady (h : pExec x e = some e') : e'.AnsweredAtReady := by
  unfold pExec at h
  split at h
  case h_4 => cases h
  all_goals
    obtain rfl := Option.some.inj h
    exact .afterPins fun _ => .complete _

theorem xCeNext_answeredAtReady (hv : e.rspValid = false) (h : xCeNext e = some e') : e'.AnsweredAtReady := by
  unfold xCeNext at h
  split_ifs at h <;> obtain rfl := Option.some.inj h
  · exact .complete 0
  · exact .goesOn hv (by simp)
  · exact .goesOn hv (by simp)

theorem xCe_answeredAtReady (hv : e.rspValid = false) (h : xCe x e = some e') : e'.AnsweredAtReady := by
  unfold xCe at h
  split at h
  · exact xCeNext_answeredAtReady (by exact hv) h
  · obtain rfl := Option.some.inj h
    exact .raiseFault _ _

/-- Every micro-state goes on without a response or ends with one. -/
theorem microOp_answeredAtReady (hv : e.rspValid = false) (hne : e.seq ≠ .ready) (h : microOp x e = some e') :
    e'.AnsweredAtReady := by
  cases hs : e.seq <;> simp only [microOp, hs, Option.some.injEq] at h
  case ready => exact absurd hs hne
  case pExec => exact pExec_answeredAtReady h
  case xCe => exact xCe_answeredAtReady hv h
  all_goals subst h
  case xOe | ewCtl | ewAddr | ewData | erData | erCtl | erAddr | erCe | wAddr | wData | rAddr =>
    exact .afterPins fun _ => .goesOn hv (by simp)
  case ewCe | erOe | rSample => exact .afterPins fun _ => .complete _
  case wSettle | wPulse => exact .delay hv hne (.afterPins fun _ => .goesOn hv (by simp))
  case wRecover => exact .delay hv hne (.complete 0)
  case rAccess => exact .delay hv hne (.goesOn hv (by simp))
  case tCtl => exact .goesOn (by simpa using hv) (by simp)
  case tRel => exact .ends rfl rfl

end

/-! ## Edges -/

/-- After an edge with `rst_n = 1` there is a response exactly where the edge ended a command. -/
theorem ebcEdge_response_iff {s : State} {e' : Ebc} (hr : s.input.rstN = true)
    (h : ebcEdge s.ctx s.input s.atEdge = some e') :
    e'.rspValid = true ↔
      e'.seq = .ready ∧ (s.atEdge.seq ≠ .ready ∨ (s.cmdReady = true ∧ s.input.cmdValid = true)) := by
  rw [cmdReady_iff]
  rcases ebcEdge_some h with ⟨_, _, rfl⟩ | ⟨hs, ha, hv, rfl⟩ | ⟨hs, _, hidle, rfl⟩ | ⟨hs, _, hm⟩
  · simp
  · have hans := accept_answeredAtReady (e := s.atEdge.openEdge false) rfl s.input.cmdWord
    simpa [hs, ha, hr, hv, Ebc.AnsweredAtReady] using hans
  · rcases hidle with hidle | hidle <;> simp [hs, hidle]
  · have hans := microOp_answeredAtReady (e := s.atEdge.openEdge s.input.abort) rfl hs hm
    simpa [hs, Ebc.AnsweredAtReady] using hans

/-- Settles O16: the response is there exactly where the edge ended a command; that its status and data hold elsewhere is
their row of R36. -/
theorem responseHolds : Obligations.ResponseHolds := by
  refine ⟨fun s t hr h => ?_, fun s hr ha hv hs => ?_⟩
  · rcases edge_next h with ⟨hlow, _⟩ | ⟨_, e', he, rfl⟩
    · exact absurd (hlow.symm.trans hr) Bool.false_ne_true
    · refine ⟨ebcEdge_response_iff hr he, fun hnone => ?_⟩
      have hheld : ¬(e'.rspStatus ≠ s.atEdge.rspStatus ∨ e'.rspData ≠ s.atEdge.rspData) := fun hw =>
        absurd (hnone.symm.trans ((writerRows_ebcEdge hr he).response hw)) Bool.false_ne_true
      simpa [not_or] using hheld
  · have hedge : edge s = .next (s.advance { s.atEdge with rspValid := false, abortLatch := false }) := by
      rw [edge_waits hr ha hs hv, Ebc.openEdge, Bool.and_false]
    rcases step_cases s with ⟨_, hv', _⟩ | ⟨_, hstep⟩
    · exact absurd (hv.symm.trans hv') Bool.false_ne_true
    · exact ⟨hedge, hstep.trans hedge⟩

end Sys2Proof.Machine
end

section
/-! The pin primitives (spec/40_gpio.md R101 to R104): each check names the lowest pin that fails it, and a primitive
whose checks pass acts on exactly its set. -/

namespace Sys2Proof.Machine

/-! ## The lowest pin -/

/-- A pin with the property that no lower pin has is the one that `lowestWhere` finds. -/
theorem lowestWhere_eq_some {f : Pin → Bool} {k : Pin} (hk : f k = true) (hlow : ∀ j, j < k → f j = false) :
    lowestWhere f = some k := by
  cases h : lowestWhere f with
  | none => exact absurd (hk.symm.trans (lowestWhere_none.mp h k)) (by decide)
  | some j =>
    obtain ⟨hj, hbelow⟩ := lowestWhere_some h
    rcases lt_trichotomy j k with hjk | rfl | hkj
    · exact absurd (hj.symm.trans (hlow j hjk)) (by decide)
    · rfl
    · exact absurd (hk.symm.trans (hbelow k hkj)) (by decide)

/-! ## The checks -/

section
variable {m v : PinMask} {md : Mode} {b pe : Bool} {p : Pins} {k : Pin} {f : PinCfg → Bool} {g : Pin → Bool}

/-- Under a port error the port check names the lowest pin of the set (R104). -/
theorem portFault_eq_some (hk : inMask m k = true) (hlow : ∀ j, j < k → inMask m j = false) :
    portFault m true = some ⟨.hwfPort, k⟩ := by
  simp [portFault, lowestPin, lowestWhere_eq_some hk hlow]

/-- The port check passes without a port error, and on the empty set. -/
theorem portFault_eq_none (h : pe = false ∨ ∀ k, inMask m k = false) : portFault m pe = none := by
  rcases h with rfl | hempty
  · exact portFault_false m
  · simp [portFault, lowestPin, lowestWhere_none.mpr hempty]

/-- The direction check names the lowest pin of the set that has not the wanted direction (R102, R103). -/
theorem directionFault_eq_some (hk : inMask m k = true) (hdir : f (pinAt p k) = false)
    (hlow : ∀ j, j < k → inMask m j = true → f (pinAt p j) = true) :
    directionFault m f p = some ⟨.hwfDirection, k⟩ := by
  have hlowest : lowestWhere (fun j => inMask m j && !f (pinAt p j)) = some k := by
    refine lowestWhere_eq_some (by simp [hk, hdir]) fun j hj => ?_
    cases hm : inMask m j with
    | false => rfl
    | true => simp [hlow j hj hm]
  simp [directionFault, hlowest]

/-! ## The primitives -/

theorem cfgPins_portFault (hk : inMask m k = true) (hlow : ∀ j, j < k → inMask m j = false) :
    cfgPins m md b true p = .error ⟨.hwfPort, k⟩ := by
  simp [cfgPins, portFault_eq_some hk hlow]

theorem cfgPins_ok (h : pe = false ∨ ∀ k, inMask m k = false) :
    cfgPins m md b pe p = .ok (configurePins m md b p) := by
  simp [cfgPins, portFault_eq_none h]

theorem setPins_directionFault (hk : inMask m k = true) (hdir : (pinAt p k).isOutput = false)
    (hlow : ∀ j, j < k → inMask m j = true → (pinAt p j).isOutput = true) :
    setPins m v pe p = .error ⟨.hwfDirection, k⟩ := by
  simp [setPins, directionFault_eq_some hk hdir hlow]

theorem setPins_portFault (hdir : ∀ k, inMask m k = true → (pinAt p k).isOutput = true) (hk : inMask m k = true)
    (hlow : ∀ j, j < k → inMask m j = false) : setPins m v true p = .error ⟨.hwfPort, k⟩ := by
  simp [setPins, directionFault_none.mpr hdir, portFault_eq_some hk hlow]

theorem setPins_ok (hdir : ∀ k, inMask m k = true → (pinAt p k).isOutput = true)
    (h : pe = false ∨ ∀ k, inMask m k = false) : setPins m v pe p = .ok (drivePins m v p) := by
  simp [setPins, directionFault_none.mpr hdir, portFault_eq_none h]

theorem getPins_directionFault (hk : inMask m k = true) (hdir : (pinAt p k).isInput = false)
    (hlow : ∀ j, j < k → inMask m j = true → (pinAt p j).isInput = true) :
    getPins m pe g p = .error ⟨.hwfDirection, k⟩ := by
  simp [getPins, directionFault_eq_some hk hdir hlow]

theorem getPins_portFault (hdir : ∀ k, inMask m k = true → (pinAt p k).isInput = true) (hk : inMask m k = true)
    (hlow : ∀ j, j < k → inMask m j = false) : getPins m true g p = .error ⟨.hwfPort, k⟩ := by
  simp [getPins, directionFault_none.mpr hdir, portFault_eq_some hk hlow]

theorem getPins_ok (hdir : ∀ k, inMask m k = true → (pinAt p k).isInput = true)
    (h : pe = false ∨ ∀ k, inMask m k = false) : getPins m pe g p = .ok (samplePins m g) := by
  simp [getPins, directionFault_none.mpr hdir, portFault_eq_none h]

end

/-! ## What sampling a net gives (R55, R103) -/

section
variable {s : State} {k : Pin}

theorem State.sample_of_high (h : s.line k = .high) : s.sample k = true := by
  simp [State.sample, h]

theorem State.sample_of_low (h : s.line k = .low) : s.sample k = false := by
  simp [State.sample, h]

end

/-- Settles O17: the port check is the only one, and `configurePins` takes nothing of the old pins of its set. -/
theorem cfgPrimitive : Obligations.CfgPrimitive := by
  intro m md init pe p
  refine ⟨fun k hpe hk hlow => ?_, fun h => ⟨_, cfgPins_ok h, fun k => ?_⟩⟩
  · subst hpe
    exact cfgPins_portFault hk hlow
  · rw [configurePins_pin]
    cases md <;> cases init <;> rfl

/-- Settles O18: the direction check comes first, then the port check, then the pins of the set are driven. -/
theorem setPrimitive : Obligations.SetPrimitive := by
  intro m v pe p
  refine ⟨fun k => setPins_directionFault, fun hdir => ⟨fun k hpe hk hlow => ?_, fun h => ?_⟩⟩
  · subst hpe
    exact setPins_portFault hdir hk hlow
  · exact ⟨_, setPins_ok hdir h, drivePins_pin m v p⟩

/-- Settles O19: the checks of `set` with Input for Output, then each bit of the set is its net's sample. -/
theorem getPrimitive : Obligations.GetPrimitive := by
  intro s m pe
  refine ⟨fun k => getPins_directionFault, fun hdir => ⟨fun k hpe hk hlow => ?_, fun h => ?_⟩⟩
  · subst hpe
    exact getPins_portFault hdir hk hlow
  · refine ⟨_, getPins_ok hdir h, fun k => ⟨fun hm => ?_, fun hm hline => ?_, fun hm hline => ?_⟩⟩
    · rw [inMask_samplePins, hm, Bool.false_and]
    · rw [inMask_samplePins, hm, State.sample_of_high hline, Bool.true_and]
    · rw [inMask_samplePins, hm, State.sample_of_low hline, Bool.true_and]

end Sys2Proof.Machine
end

section
/-! The teardown and PREL (spec/40_gpio.md R108, R109): T_CTL pin by pin, and the whole command from its accepting edge.
What a command's pads leave of the device is said for any flight beside them. -/

namespace Sys2Proof.Machine

/-! ## Edges with no new abort -/

section
variable {s : State} {e : Ebc}

/-- In a micro-state, with no reset and no abort that is not latched yet, an edge is the micro-state's action. -/
theorem edge_micro_latched (hr : s.input.rst = .high) (ha : s.input.abort = true → s.ebc.abortLatch = true)
    (hs : s.ebc.seq ≠ .ready) (hm : microOp s.ctx (s.ebc.openEdge s.input.abort) = some e) :
    edge s = .next (s.advance e) := by
  have hentry : (s.input.abort && !s.ebc.abortLatch) = false := by
    cases h : s.input.abort with
    | false => rfl
    | true => rw [ha h]; rfl
  simp [edge_running (rstN_of_high hr), State.atEdge_high hr, ebcEdge, hentry, hs, hm]

end

/-! ## T_CTL (R108) -/

theorem inMask_ctrl_iff (k : Pin) : inMask maskCtrl k = true ↔ 16 ≤ k.val := by
  revert k; decide

/-- T_CTL on one pin: Output control lines go High, nothing else moves. -/
theorem deassertControl_cases (k : Pin) (c : PinCfg) :
    (16 ≤ k.val ∧ c.isOutput = true ∧ deassertControl k c = .output .high) ∨
      ((k.val < 16 ∨ c.isOutput = false) ∧ deassertControl k c = c) := by
  by_cases h : inMask maskCtrl k = true ∧ c.isOutput = true
  · exact .inl ⟨(inMask_ctrl_iff k).mp h.1, h.2, by simp [deassertControl, h]⟩
  · refine .inr ⟨?_, by simp_all [deassertControl]⟩
    rw [inMask_ctrl_iff] at h
    cases hc : c.isOutput with
    | false => exact .inr rfl
    | true => exact .inl (by simp_all)

theorem controlsDeasserted_deassertControls (p : Pins) : ControlsDeasserted p (deassertControls p) := by
  refine ⟨fun k l hk hl => ?_, fun k h => ?_⟩ <;> rw [deassertControls_pin] <;>
    rcases deassertControl_cases k (pinAt p k) with ⟨hk', hout, hc⟩ | ⟨hkeep, hc⟩ <;> rw [hc]
  · rcases hkeep with hlt | hin
    · omega
    · simp [hl] at hin
  · rcases h with hlt | hnot
    · omega
    · cases hp : pinAt p k with
      | output l => exact absurd hp (hnot l)
      | unclaimed | input => simp [hp, PinCfg.isOutput] at hout

theorem microOp_tCtl {x : EdgeCtx} {e : Ebc} (hs : e.seq = .tCtl) : microOp x e = some e.teardownControls := by
  simp only [microOp, hs]

theorem microOp_tRel {x : EdgeCtx} {e : Ebc} (hs : e.seq = .tRel) : microOp x e = some e.teardownRelease := by
  simp only [microOp, hs]

/-- Settles O60: T_CTL needs no check, and of the abort it leaves the latch as `abort` stands. -/
theorem teardownDeassertsControls : Obligations.TeardownDeassertsControls := by
  intro s hs hr ha
  have hlatch : (s.ebc.abortLatch && s.input.abort) = s.input.abort := by
    cases h : s.input.abort with
    | false => exact Bool.and_false _
    | true => rw [ha h]; rfl
  have hedge : edge s = .next (s.advance (s.ebc.openEdge s.input.abort).teardownControls) :=
    edge_micro_latched hr ha (by simp [hs]) (microOp_tCtl hs)
  refine ⟨_, hedge, ⟨rfl, List.drop_one.symm, rfl⟩, ?_, controlsDeasserted_deassertControls _⟩
  simp [Ebc.teardownControls, Ebc.openEdge, hlatch]

/-! ## What pads leave of the device -/

/-- No data line is driven against the device (R62, 41_bus_phase.md R127). -/
theorem State.contends_of_safe {s : State} (h : DataDriveSafe s.ebc.pincfg) : s.contends = false := by
  by_contra hc
  simp only [State.contends, Bool.not_eq_false, Bool.and_eq_true, List.any_eq_true] at hc
  obtain ⟨hdrives, i, _, hi⟩ := hc
  have hout : (pinAt s.ebc.pincfg (pinIO i)).isOutput = true := by
    rw [State.pin_def] at hi
    cases hp : pinAt s.ebc.pincfg (pinIO i) <;> simp [hp, PinCfg.padOe, PinCfg.claimed, PinCfg.dir] at hi ⊢
  exact absurd (hdrives.symm.trans (State.devDrives_of_highOE (h ⟨i, hout⟩))) (by decide)

section
variable {C : Pins → Prop} {n : Nat} {s t : State} {e : Ebc} {i : Instr}

/-- A command beside whose pads no pulse can be on leaves the cells of a device at rest alone. -/
theorem Flight.sameCells (f : Flight (PulseExcluded s.par.floatPolicy) n (s.advance e) t) (hr : s.atRest)
    (hoff : s.writeOff) : SameCells s t := by
  obtain ⟨hpulse, hcycle, hmem⟩ := State.devStep_rest hr (State.pulseOn_of_writeOff hoff)
  obtain ⟨_, hmem'⟩ := f.rest rfl ⟨hpulse, hcycle⟩
  exact State.cell_congr f.took.1 (hmem'.trans hmem)

/-- A command that never drives a data line against the device leaves BUS_CONTENTION alone. -/
theorem Flight.sameContention (f : Flight DataDriveSafe n (s.advance e) t) (hsafe : DataDriveSafe s.ebc.pincfg) :
    t.dev.contention = s.dev.contention :=
  f.carries (Q := fun _ u => u.dev.contention = s.dev.contention) (k := 0)
    (fun _ u _ hC hu => by simp [State.contends_of_safe hC, hu]) (by simp [State.contends_of_safe hsafe])

/-! ## Commands with no reset and no abort to come -/

/-- The micro-state's action is a flight of one edge. -/
theorem flight_micro (hu : s.undisturbed) (hs : s.ebc.seq ≠ .ready) (hC : C s.ebc.pincfg)
    (hm : microOp s.ctx (s.ebc.openEdge false) = some e) : Flight C 1 s (s.advance e) := by
  obtain ⟨hr, ha⟩ := input_undisturbed hu
  refine .step (by rwa [State.atEdge_high hr]) hC ?_ (.here _)
  rw [edge_micro hr ha hs, hm]

theorem Took.undisturbed (h : Took n s t) (hu : s.undisturbed) : t.undisturbed := by
  obtain ⟨_, hinputs, _⟩ := h
  exact fun x hx => hu x (List.mem_of_mem_drop (hinputs ▸ hx))

/-- The accepting edge is one more. -/
theorem Took.after_advance (h : Took n (s.advance e) t) : Took (n + 1) s t := by
  obtain ⟨hpar, hinputs, htick⟩ := h
  exact ⟨hpar, by simpa using hinputs, by rw [htick, State.advance_tick]; omega⟩

/-- A command whose acceptance starts a flight to READY is that flight, port errors or not. -/
theorem exec_of_undisturbed_flight (hu : s.undisturbed) (hs : s.ebc.seq = .ready)
    (f : Flight C n (s.advance (s.accepted i)) t) (ht : t.ebc.seq = .ready) (hn : n ≤ 8) : exec i s = .next t := by
  rw [exec_ready (cmdReady_of_undisturbed hu hs), acceptEdge, State.atEdge_high (input_undisturbed hu).1]
  refine f.runToReady ht ?_
  simp only [State.edgeBound]
  omega

end

/-! ## PREL (R108, R109) -/

/-- The registers after a PREL. -/
def Ebc.released (e : Ebc) : Ebc :=
  { e.done (encode .prel) 0 with
    pincfg := releasedPins, phase := .idle, fault := false, faultCause := .ok, faultPin := 0, faultOp := 0 }

/-- The pads that a teardown of the pins `p` shows before it releases them. -/
def TornFrom (p q : Pins) : Prop := q = p ∨ q = deassertControls p

section
variable {p q : Pins} {fp : FloatPolicy}

/-- T_CTL leaves a line as it is, or drives it High. -/
theorem passiveNet_deassertControl (k : Pin) (c : PinCfg) :
    passiveNet (deassertControl k c) = .high ∨ deassertControl k c = c := by
  rcases deassertControl_cases k c with ⟨_, _, hc⟩ | ⟨_, hc⟩
  · exact .inl (by rw [hc]; rfl)
  · exact .inr hc

/-- A teardown starts no write pulse. -/
theorem TornFrom.pulseExcluded (h : TornFrom p q) (hp : PulseExcluded fp p) : PulseExcluded fp q := by
  rcases h with rfl | rfl
  · exact hp
  · simp only [PulseExcluded, deassertControls_pin]
    rcases passiveNet_deassertControl pinWE (pinAt p pinWE) with hWE | hWE
    · exact .inl hWE
    · rcases passiveNet_deassertControl pinCE (pinAt p pinCE) with hCE | hCE
      · exact .inr (.inl hCE)
      · rwa [hWE, hCE]

/-- A teardown moves no data line, and takes no OE̅ from High. -/
theorem TornFrom.dataDriveSafe (h : TornFrom p q) (hp : DataDriveSafe p) : DataDriveSafe q := by
  rcases h with rfl | rfl
  · exact hp
  · rintro ⟨i, hi⟩
    have hOE : pinAt p pinOE = .output .high := hp ⟨i, by simpa [deassertControl] using hi⟩
    simp [deassertControl, hOE]

end

/-- A whole PREL: after its accepting edge, the two edges of its teardown. -/
theorem prel_runs {s : State} (hu : s.undisturbed) (hs : s.ebc.seq = .ready) (ha : s.ebc.aborting = false) :
    ∃ t, exec .prel s = .next t ∧ Flight (TornFrom s.ebc.pincfg) 2 (s.advance (s.accepted .prel)) t ∧
      t.ebc = s.ebc.released := by
  have hu₀ := undisturbed_advance hu (s.accepted .prel)
  have f₁ : Flight (TornFrom s.ebc.pincfg) 1 (s.advance (s.accepted .prel)) _ :=
    flight_micro hu₀ (by nofun) (.inl rfl) (microOp_tCtl rfl)
  have f := f₁.trans (flight_micro (undisturbed_advance hu₀ _) (by simp) (.inr rfl) (microOp_tRel (by simp)))
  refine ⟨_, exec_of_undisturbed_flight hu hs f rfl (by omega), f, ?_⟩
  simp [State.accepted, State.latched, acceptInstr, acceptPrel, Ebc.teardownRelease, Ebc.teardownControls, Ebc.openEdge,
    Ebc.latch, Ebc.respond, Ebc.released, Ebc.done, ha]

/-- Settles O30: the run shows the pads of a teardown only, and releasing released registers changes nothing. -/
theorem prelReleasesEverything : Obligations.PrelReleasesEverything := by
  intro s hu hs ha
  obtain ⟨t, hexec, f, ht⟩ := prel_runs hu hs ha
  have htook : Took 3 s t := f.took.after_advance
  obtain ⟨u, hexec', _, hu'⟩ := prel_runs (s := t) (htook.undisturbed hu) (by rw [ht]; rfl) (by rw [ht]; exact ha)
  refine ⟨t, hexec, htook, ?_, ?_, ?_, ?_, u, hexec', ?_⟩
  · rw [ht]
    rfl
  · rw [ht]
    exact releasedPins_pin
  · exact fun hr hoff => (f.mono fun _ hq => hq.pulseExcluded hoff).sameCells hr hoff
  · exact fun hsafe => (f.mono fun _ hq => hq.dataDriveSafe hsafe).sameContention hsafe
  · rw [hu', ht]
    rfl

end Sys2Proof.Machine
end

section
/-! The pin commands PCFG, PSET and PGET in IDLE (spec/40_gpio.md R105 to R107, R110): acceptance goes to P_EXEC and
moves no pin, so the pads of both cycles are those that the command finds, and P_EXEC's primitive decides the rest. -/

namespace Sys2Proof.Machine

/-! ## P_EXEC -/

section
variable {x : EdgeCtx} {e : Ebc} {n : BitVec 5} {l : Level}

theorem pExec_pcfg {m : PinMask} {md : Mode} {b : Bool} (hd : decode e.cmd = .ok (.pcfg m md b)) :
    pExec x e = some (pcfgExec m md b x e) := by
  simp [pExec, hd]

theorem pExec_pset (hd : decode e.cmd = .ok (.pset n l)) : pExec x e = some (psetExec n l x e) := by
  simp [pExec, hd]

theorem pExec_pget (hd : decode e.cmd = .ok (.pget n)) : pExec x e = some (pgetExec n x e) := by
  simp [pExec, hd]

/-! ### One pin -/

theorem pinOfIndex_val (h : pinIndexLegal n = true) : (pinOfIndex n).val = n.toNat := by
  simp only [pinIndexLegal, decide_eq_true_eq] at h
  exact Nat.mod_eq_of_lt (by omega)

/-- `FAULT_PIN` names a pin by the index that named it. -/
theorem pinField_pinOfIndex (h : pinIndexLegal n = true) : pinField (pinOfIndex n) = n := by
  rw [pinField, pinOfIndex_val h, BitVec.ofNat_toNat, BitVec.setWidth_eq]

/-- What holds of a pin holds of every pin of its set. -/
theorem maskPin_pins {P : Pin → Prop} {k : Pin} (h : P k) (j : Pin) (hj : inMask (maskPin k) j = true) : P j := by
  rw [inMask_maskPin, decide_eq_true_eq] at hj
  rwa [hj]

theorem maskPin_below (k j : Pin) (hj : j < k) : inMask (maskPin k) j = false := by
  rw [inMask_maskPin, decide_eq_false_iff_not]
  exact ne_of_lt hj

/-- The vector that PSET drives from (R106). -/
def psetVector (n : BitVec 5) (l : Level) : PinMask := if l = .high then maskPin (pinOfIndex n) else 0

/-- It carries the level on the pin. -/
theorem inMask_psetVector : inMask (psetVector n l) (pinOfIndex n) = l.bit := by
  cases l with
  | low => exact inMask_zero _
  | high => rw [psetVector, if_pos rfl, inMask_maskPin, decide_eq_true rfl, Level.bit]

theorem psetExec_eq : psetExec n l x e =
    e.afterPins (setPins (maskPin (pinOfIndex n)) (psetVector n l) x.portErr e.pincfg) fun pins =>
      { e with pincfg := pins }.complete 0 := rfl

/-- PSET drives its pin to its level and no other. -/
theorem drivePins_pset (h : pinIndexLegal n = true) (p : Pins) (k : Pin) :
    pinAt (drivePins (maskPin (pinOfIndex n)) (psetVector n l) p) k =
      if k.val = n.toNat then .output l else pinAt p k := by
  rw [drivePins_pin, inMask_maskPin, ← pinOfIndex_val h]
  by_cases hk : k = pinOfIndex n
  · rw [if_pos (decide_eq_true hk), if_pos (congrArg Fin.val hk), hk, inMask_psetVector, Level.ofBit_bit]
  · rw [if_neg (by simpa using hk), if_neg (fun hv => hk (Fin.ext hv))]

/-! ### What the three commands do -/

theorem pcfgExec_quiet {m : PinMask} {md : Mode} {b : Bool} (hx : x.portErr = false) :
    pcfgExec m md b x e = { e with pincfg := configurePins m md b e.pincfg }.complete 0 := by
  rw [pcfgExec, hx, cfgPins_quiet, afterPins_ok]

theorem psetExec_quiet (hx : x.portErr = false) (hout : (pinAt e.pincfg (pinOfIndex n)).isOutput = true) :
    psetExec n l x e =
      { e with pincfg := drivePins (maskPin (pinOfIndex n)) (psetVector n l) e.pincfg }.complete 0 := by
  rw [psetExec_eq, hx, setPins_quiet (maskPin_pins hout), afterPins_ok]

theorem pgetExec_quiet (hx : x.portErr = false) (hin : (pinAt e.pincfg (pinOfIndex n)).isInput = true) :
    pgetExec n x e = e.complete (if x.sample (pinOfIndex n) then 1 else 0) := by
  rw [pgetExec, hx, getPins_quiet (maskPin_pins hin), afterPins_ok, inMask_samplePins, inMask_maskPin,
    decide_eq_true rfl, Bool.true_and]
  cases x.sample (pinOfIndex n) <;> rfl

/-- The direction check comes before the port check, so a port error changes nothing here (R104, R110). -/
theorem psetExec_direction (h : pinIndexLegal n = true) (hout : (pinAt e.pincfg (pinOfIndex n)).isOutput = false) :
    psetExec n l x e = e.raiseFault .hwfDirection n := by
  have hfault := setPins_directionFault (m := maskPin (pinOfIndex n)) (v := psetVector n l) (pe := x.portErr)
    (by simp) hout fun j hj hm => absurd (hm.symm.trans (maskPin_below _ j hj)) (by decide)
  rw [psetExec_eq, hfault, afterPins_error, pinField_pinOfIndex h]

theorem pgetExec_direction (h : pinIndexLegal n = true) (hin : (pinAt e.pincfg (pinOfIndex n)).isInput = false) :
    pgetExec n x e = e.raiseFault .hwfDirection n := by
  have hfault := getPins_directionFault (m := maskPin (pinOfIndex n)) (pe := x.portErr) (g := x.sample) (by simp) hin
    fun j hj hm => absurd (hm.symm.trans (maskPin_below _ j hj)) (by decide)
  rw [pgetExec, hfault, afterPins_error, pinField_pinOfIndex h]

end

/-! ## Acceptance in IDLE with FAULT = 0 -/

section
variable {s : State} {i : Instr} {e : Ebc}

/-- The registers after the acceptance of a pin command. -/
def State.atPExec (s : State) (i : Instr) : Ebc := { s.latched i with seq := .pExec }

@[simp] theorem State.atPExec_seq : (s.atPExec i).seq = .pExec := rfl

/-- Acceptance has cleared the response and the latch already. -/
theorem State.atPExec_openEdge : (s.atPExec i).openEdge false = s.atPExec i := by
  simp [State.atPExec, State.latched, Ebc.openEdge, Ebc.latch]

/-- P_EXEC's completion, as a whole register file. -/
theorem State.atPExec_complete (p : Pins) (d : Byte) :
    { s.atPExec i with pincfg := p }.complete d = { s.ebc.done (encode i) d with pincfg := p } := by
  simp [State.atPExec, State.latched, Ebc.openEdge, Ebc.latch, Ebc.complete, Ebc.respond, Ebc.done]

/-- P_EXEC's fault, as a whole register file. -/
theorem State.atPExec_raiseFault (cause : Status) (q : BitVec 5) :
    (s.atPExec i).raiseFault cause q = s.ebc.failed (encode i) cause q := by
  simp [State.atPExec, State.latched, Ebc.openEdge, Ebc.latch, Ebc.raiseFault, Ebc.respond, Ebc.failed]

theorem toPinExec_idle (h : e.phase = .idle) : e.toPinExec = { e with seq := .pExec } := if_pos h

/-- A well-formed pin command passes every check. -/
theorem accepted_pinCommand (hf : s.ebc.fault = false) (hph : s.ebc.phase = .idle) (hwf : i.wellFormed = true)
    (hi : isPinCommand i = true) : s.accepted i = s.atPExec i := by
  have hpass : (s.latched i).passChecks true Ebc.toPinExec = s.atPExec i :=
    (passChecks_ok (e := s.latched i) hf).trans (toPinExec_idle (e := s.latched i) hph)
  cases i with
  | pcfg => exact hpass
  | pset n | pget n =>
    have hn : pinIndexLegal n = true := hwf
    simpa only [State.accepted, acceptInstr, acceptPset, acceptPget, hn] using hpass
  | prel | entw | entr | exit | wrb | rdb => cases hi

/-- A whole pin command: its accepting edge and P_EXEC's, both beside the pads that it finds. -/
theorem pinCommand_runs (i : Instr) (hu : s.undisturbed) (hs : s.ebc.seq = .ready) (hf : s.ebc.fault = false)
    (hph : s.ebc.phase = .idle) (hwf : i.wellFormed = true) (hi : isPinCommand i = true)
    (hm : pExec (s.advance (s.atPExec i)).ctx (s.atPExec i) = some e) (he : e.seq = .ready) :
    ∃ t, exec i s = .next t ∧ Flight (· = s.ebc.pincfg) 1 (s.advance (s.atPExec i)) t ∧ t.ebc = e := by
  have hmicro : microOp (s.advance (s.atPExec i)).ctx ((s.atPExec i).openEdge false) = some e := by
    simp only [State.atPExec_openEdge, microOp, State.atPExec_seq, hm]
  have f : Flight (· = s.ebc.pincfg) 1 (s.advance (s.atPExec i)) _ :=
    flight_micro (undisturbed_advance hu _) (by simp) rfl hmicro
  refine ⟨_, exec_of_undisturbed_flight (C := (· = s.ebc.pincfg)) (n := 1) hu hs ?_ he (by omega), f, rfl⟩
  rwa [accepted_pinCommand hf hph hwf hi]

end

/-! ## The outcomes -/

section
variable {s t : State} {i : Instr} {k : Nat} {e : Ebc}

/-- What a pin command leaves of the device: it shows no pads but those that it finds. -/
theorem Flight.heldPads (f : Flight (· = s.ebc.pincfg) k (s.advance e) t) :
    (s.atRest → s.writeOff → SameCells s t) ∧
      (DataDriveSafe s.ebc.pincfg → t.dev.contention = s.dev.contention) :=
  ⟨fun hr hoff => (f.mono fun _ hq => hq ▸ hoff).sameCells hr hoff,
    fun hsafe => (f.mono fun _ hq => hq ▸ hsafe).sameContention hsafe⟩

/-- A quiet state's P_EXEC finds no port error. -/
theorem ctx_quiet (hq : s.quiet) : (s.advance e).ctx.portErr = false :=
  (input_quiet (quiet_advance hq e)).2.2

/-- A pulled-up net that the device does not drive is sampled High (R55, R107). -/
theorem State.sample_of_pullUp {k : Pin} (hup : pinAt s.ebc.pincfg k = .input .up)
    (h : inMask maskData k = false ∨ passiveNet (s.pin pinCE) = .high ∨ passiveNet (s.pin pinOE) = .high) :
    s.sample k = true := by
  have hfree : (inMask maskData k && s.devDrives) = false := by
    rcases h with hk | hCE | hOE
    · rw [hk, Bool.false_and]
    · simp [State.devDrives, State.seenLow_of_passiveHigh hCE]
    · simp [State.devDrives, State.seenLow_of_passiveHigh hOE]
  refine State.sample_of_high ?_
  rw [State.line, hfree, State.pin_def, hup]
  rfl

end

/-- Settles O20: P_EXEC's `cfg` cannot fail with quiet inputs. -/
theorem pcfgConfiguresItsMask : Obligations.PcfgConfiguresItsMask := by
  intro s m md b hq hs hf hph
  have hd : decode (encode (.pcfg m md b)) = .ok (.pcfg m md b) := decodeInvertsEncode _ rfl
  obtain ⟨t, hexec, f, ht⟩ := pinCommand_runs (.pcfg m md b) (quiet_undisturbed hq) hs hf hph rfl rfl
    ((pExec_pcfg hd).trans (congrArg some (pcfgExec_quiet (ctx_quiet hq)))) rfl
  rw [State.atPExec_complete] at ht
  refine ⟨t, hexec, f.took.after_advance, by rw [ht], fun k => ?_, f.heldPads⟩
  rw [ht]
  exact configurePins_pin m md b _ k

/-- Settles O21: the pin is Output, so P_EXEC's `set` cannot fail with quiet inputs. -/
theorem psetDrivesItsPin : Obligations.PsetDrivesItsPin := by
  intro s n l hq hs hf hph hn hout
  have hd : decode (encode (.pset n l)) = .ok (.pset n l) := decodeInvertsEncode _ hn
  obtain ⟨t, hexec, f, ht⟩ := pinCommand_runs (.pset n l) (quiet_undisturbed hq) hs hf hph hn rfl
    ((pExec_pset hd).trans (congrArg some (psetExec_quiet (ctx_quiet hq) hout))) rfl
  rw [State.atPExec_complete] at ht
  refine ⟨t, hexec, f.took.after_advance, by rw [ht], fun k => ?_, f.heldPads⟩
  rw [ht]
  exact drivePins_pset hn _ k

/-- Settles O22: the pin is Input, so P_EXEC's `get` cannot fail with quiet inputs, and it samples the net beside the
pads that the command found. -/
theorem pgetSamplesItsNet : Obligations.PgetSamplesItsNet := by
  intro s n hq hs hf hph hn hin
  have hd : decode (encode (.pget n)) = .ok (.pget n) := decodeInvertsEncode _ hn
  have hedge : acceptEdge (encode (.pget n)) (acceptPget n) s = s.advance (s.atPExec (.pget n)) := by
    rw [← accepted_pinCommand (i := .pget n) hf hph hn rfl, acceptEdge, State.atEdge_high (input_quiet hq).1]
    rfl
  obtain ⟨t, hexec, f, ht⟩ := pinCommand_runs (.pget n) (quiet_undisturbed hq) hs hf hph hn rfl
    ((pExec_pget hd).trans (congrArg some (pgetExec_quiet (ctx_quiet hq) hin))) rfl
  rw [State.atPExec_complete] at ht
  refine ⟨t, hexec, f.took.after_advance, ?_, fun hup hfree => ?_, f.heldPads⟩
  · rw [ht, hedge]
    rfl
  · rw [ht]
    exact if_pos (State.sample_of_pullUp (s := s.advance (s.atPExec (.pget n))) hup hfree)

/-- Settles O23: the direction check is the first of P_EXEC's checks, and its fault moves no pin. -/
theorem directionViolationFaults : Obligations.DirectionViolationFaults := by
  intro s n l hu hs hf hph hn
  have hdset : decode (encode (.pset n l)) = .ok (.pset n l) := decodeInvertsEncode _ hn
  have hdget : decode (encode (.pget n)) = .ok (.pget n) := decodeInvertsEncode _ hn
  refine ⟨fun hout => ?_, fun hin => ?_⟩
  · obtain ⟨t, hexec, f, ht⟩ := pinCommand_runs (.pset n l) hu hs hf hph hn rfl
      ((pExec_pset hdset).trans (congrArg some (psetExec_direction hn hout))) rfl
    exact ⟨t, hexec, f.took.after_advance, ht.trans (State.atPExec_raiseFault _ _)⟩
  · obtain ⟨t, hexec, f, ht⟩ := pinCommand_runs (.pget n) hu hs hf hph hn rfl
      ((pExec_pget hdget).trans (congrArg some (pgetExec_direction hn hin))) rfl
    exact ⟨t, hexec, f.took.after_advance, ht.trans (State.atPExec_raiseFault _ _)⟩

end Sys2Proof.Machine
end

section
/-! The phase machine under any inputs (spec/41_bus_phase.md R120, R125 to R127; 10_state.md R26, R28; 20_memory.md
R58). `Ebc.Lawful` says of one edge's action that it keeps the invariant, moves `PHASE` only as R120 lets it, raises
HWF_DIRECTION only for PSET and PGET, and drives no data line against the device. Every micro-state and every acceptance
is shown lawful once; the statements are read off it. -/

namespace Sys2Proof.Machine

/-! ## The invariant, in two parts -/

/-- A command under way: the fault record is clear, no abort is torn down, no response stands. -/
def Ebc.Clear (e : Ebc) : Prop :=
  (e.fault = false ∧ e.faultCause = .ok ∧ e.faultPin = 0 ∧ e.faultOp = 0) ∧ e.aborting = false ∧ e.rspValid = false

/-- The counter stands within the delay of a delay state, and at 0 elsewhere (10_state.md R28). -/
def Ebc.CountFits (p : Params) (e : Ebc) : Prop :=
  match e.seq.isDelay with
  | true => 1 ≤ e.cnt ∧ e.cnt ≤ delayOf p e.seq
  | false => e.cnt = 0

/-- The micro-state's part of the invariant. -/
structure Ebc.SeqFits (p : Params) (e : Ebc) : Prop where
  count : e.CountFits p
  command : e.CommandFits
  phase : e.seq.phaseFits e.phase = true
  pins : e.PinsFit

section
variable {p : Params} {e e' : Ebc}

/-- For a command under way the micro-state's part is the whole invariant. -/
theorem Ebc.Inv.of_clear (hc : e.Clear) (hf : e.SeqFits p) : e.Inv p := by
  obtain ⟨⟨hfault, hrecord⟩, habort, hrsp⟩ := hc
  obtain ⟨hcount, hcmd, hph, hpins⟩ := hf
  exact {
    cntClear := fun hd => by simpa only [Ebc.CountFits, hd] using hcount
    cntCounts := fun hd => by simpa only [Ebc.CountFits, hd] using hcount
    faultClear := fun _ => hrecord
    faultHeld := fun h => absurd (hfault.symm.trans h) Bool.false_ne_true
    abortingTears := fun h => absurd (habort.symm.trans h) Bool.false_ne_true
    responded := fun h => absurd (hrsp.symm.trans h) Bool.false_ne_true
    command := hcmd
    phase := hph
    pins := hpins }

/-- Outside a teardown, registers with no fault and no response are clear. -/
theorem Ebc.Inv.clear (h : e.Inv p) (hv : e.rspValid = false) (hf : e.fault = false) (hT : e.seq ≠ .tCtl)
    (hR : e.seq ≠ .tRel) : e.Clear := by
  refine ⟨⟨hf, h.faultClear hf⟩, ?_, hv⟩
  by_contra ha
  rcases h.abortingTears (by simpa using ha) with hs | hs
  · exact hT hs
  · exact hR hs

/-- A micro-state of a command is clear: only a teardown runs beside a fault. -/
theorem Ebc.Inv.clear_underWay (h : e.Inv p) (hv : e.rspValid = false) (hne : e.seq ≠ .ready) (hT : e.seq ≠ .tCtl)
    (hR : e.seq ≠ .tRel) : e.Clear := by
  refine h.clear hv ?_ hT hR
  by_contra hf
  obtain ⟨_, hs⟩ := h.faultHeld (by simpa using hf)
  rcases hs with hs | hs | hs
  · exact hne hs
  · exact hT hs
  · exact hR hs

/-- What the invariant says of the registers in micro-state `q`. -/
theorem Ebc.Inv.fitsAt {q : Seq} (h : e.Inv p) (hs : e.seq = q) : { e with seq := q }.SeqFits p := by
  subst hs
  refine ⟨?_, h.command, h.phase, h.pins⟩
  unfold Ebc.CountFits
  split
  case h_1 hd => exact h.cntCounts hd
  case h_2 hd => exact h.cntClear hd

theorem Ebc.Inv.openEdge (h : e.Inv p) (b : Bool) : (e.openEdge b).Inv p where
  cntClear := h.cntClear
  cntCounts := h.cntCounts
  faultClear := h.faultClear
  faultHeld := h.faultHeld
  abortingTears := h.abortingTears
  responded := nofun
  command := h.command
  phase := h.phase
  pins := h.pins

/-- In READY every command fits. -/
theorem Ebc.Inv.latch (h : e.Inv p) (hs : e.seq = .ready) (w : Word) : (e.latch w).Inv p where
  cntClear := h.cntClear
  cntCounts := h.cntCounts
  faultClear := h.faultClear
  faultHeld := h.faultHeld
  abortingTears := h.abortingTears
  responded := h.responded
  command := by simp [Ebc.CommandFits, hs]
  phase := h.phase
  pins := h.pins

/-- The reset values (70_reset_and_hazards.md R192). -/
theorem Ebc.inv_reset : Ebc.reset.Inv p :=
  .of_clear ⟨⟨rfl, rfl, rfl, rfl⟩, rfl, rfl⟩ ⟨rfl, trivial, rfl, fun _ => ⟨nofun, nofun⟩⟩

end

/-! ## What an edge's action may do -/

/-- `PHASE` stays, or moves as one of EW_CE, ER_OE, X_CE and T_REL moves it (R120). -/
def Ebc.PhaseMoves (e : Ebc) (ph : Phase) : Prop :=
  ph = e.phase ∨ (e.seq = .ewCe ∧ ph = .writeActive) ∨ (e.seq = .erOe ∧ ph = .readActive) ∨
    ((e.seq = .xCe ∨ e.seq = .tRel) ∧ ph = .idle)

/-- Every micro-state but P_EXEC keeps data lines from being driven while OE̅ is not driven High (R126, R127). -/
def Ebc.DrivesSafely (e : Ebc) (q : Pins) : Prop := e.seq ≠ .pExec → DataDriveSafe e.pincfg → DataDriveSafe q

/-- P_EXEC of a PSET or a PGET. -/
def Ebc.ExecutesOnePin (e : Ebc) : Prop :=
  e.seq = .pExec ∧ ∃ n, (∃ l, decode e.cmd = .ok (.pset n l)) ∨ decode e.cmd = .ok (.pget n)

/-- The action of an edge takes registers `e` to `e'` within the invariant and the rules of the phase machine. -/
structure Ebc.Lawful (p : Params) (e e' : Ebc) : Prop where
  inv : e'.Inv p
  phase : e.PhaseMoves e'.phase
  direction : e'.rspValid = true → e'.rspStatus = .hwfDirection → e.ExecutesOnePin
  pads : e.DrivesSafely e'.pincfg

section
variable {p : Params} {e e' : Ebc} {x : EdgeCtx} {m v : PinMask} {q : Pins}

/-- With the data lines Input none is driven. -/
theorem DataDriveSafe.of_dataIn (h : DataIn q) : DataDriveSafe q := by
  rintro ⟨i, hi⟩
  simp [h i] at hi

theorem Ebc.DrivesSafely.of_highOE (h : pinAt q pinOE = .output .high) : e.DrivesSafely q := fun _ _ _ => h

theorem Ebc.DrivesSafely.of_dataIn (h : DataIn q) : e.DrivesSafely q := fun _ _ => .of_dataIn h

theorem Ebc.DrivesSafely.same : e.DrivesSafely e.pincfg := fun _ h => h

theorem Ebc.PhaseMoves.stays : e.PhaseMoves e.phase := .inl rfl

/-! ### The ways an action can end -/

/-- The command goes on in another micro-state. -/
theorem Ebc.Lawful.goesOn (hc : e'.Clear) (hf : e'.SeqFits p) (hpads : e.DrivesSafely e'.pincfg)
    (hph : e.PhaseMoves e'.phase) : e.Lawful p e' where
  inv := .of_clear hc hf
  phase := hph
  direction hv := by
    obtain ⟨_, _, hrsp⟩ := hc
    exact absurd (hrsp.symm.trans hv) Bool.false_ne_true
  pads := hpads

/-- The command completes, with the pins in the row of its phase. -/
theorem Ebc.Lawful.complete {d : Byte} (hc : e'.Clear) (hcnt : e'.cnt = 0) (hrow : PhaseRow e'.phase e'.pincfg)
    (hpads : e.DrivesSafely e'.pincfg) (hph : e.PhaseMoves e'.phase) :
    e.Lawful p (e'.complete d) where
  inv := by
    obtain ⟨⟨hfault, hrecord⟩, habort, _⟩ := hc
    exact {
      cntClear := fun _ => hcnt
      cntCounts := nofun
      faultClear := fun _ => hrecord
      faultHeld := fun h => absurd (hfault.symm.trans h) Bool.false_ne_true
      abortingTears := fun h => absurd (habort.symm.trans h) Bool.false_ne_true
      responded := fun _ => rfl
      command := trivial
      phase := rfl
      pins := fun _ => hrow }
  phase := hph
  direction := nofun
  pads := hpads

/-- The command ends in a HardwareFault, which moves no pin and not the phase. -/
theorem Ebc.Lawful.raiseFault {cause : Status} {k : BitVec 5} (hc : e.Clear) (hcause : cause.isHardwareFault = true)
    (hdir : cause = .hwfDirection → e.ExecutesOnePin := by nofun) :
    e.Lawful p (e.raiseFault cause k) where
  inv := {
    cntClear := fun _ => rfl
    cntCounts := nofun
    faultClear := nofun
    faultHeld := fun _ => ⟨hcause, .inl rfl⟩
    abortingTears := fun h => by
      obtain ⟨_, habort, _⟩ := hc
      exact absurd (habort.symm.trans h) Bool.false_ne_true
    responded := fun _ => rfl
    command := trivial
    phase := rfl
    pins := nofun }
  phase := .inl rfl
  direction _ := hdir
  pads := .same

/-- In READY an answer that is not a fault changes the response only. -/
theorem Ebc.Lawful.answer {st : Status} {d : Byte} (h : e.Inv p) (hs : e.seq = .ready) (hst : st ≠ .hwfDirection) :
    e.Lawful p { e.respond st d with seq := .ready } where
  inv := {
    cntClear := fun _ => h.cntClear (by rw [hs]; rfl)
    cntCounts := nofun
    faultClear := h.faultClear
    faultHeld := fun hf => ⟨(h.faultHeld hf).1, .inl rfl⟩
    abortingTears := fun ha => by simpa only [hs] using h.abortingTears ha
    responded := fun _ => rfl
    command := trivial
    phase := rfl
    pins := by
      have hpins := h.pins
      simp only [Ebc.PinsFit, hs] at hpins
      exact hpins }
  phase := .inl rfl
  direction _ hd := absurd hd hst
  pads := .same

/-- A teardown starts or goes on, beside a fault or not (40_gpio.md R108, 60_exceptions.md R174, R176). -/
theorem Ebc.Lawful.tearsDown (h : e.Inv p) (hs : e'.seq = .tCtl ∨ e'.seq = .tRel) (hcnt : e'.cnt = 0)
    (hv : e'.rspValid = false)
    (hrecord : e'.fault = e.fault ∧ e'.faultCause = e.faultCause ∧ e'.faultPin = e.faultPin ∧ e'.faultOp = e.faultOp)
    (hph : e'.phase = e.phase) (hpads : e.DrivesSafely e'.pincfg) : e.Lawful p e' where
  inv := by
    obtain ⟨hfault, hcause, hpin, hop⟩ := hrecord
    exact {
      cntClear := fun _ => hcnt
      cntCounts := fun hd => by rcases hs with hs | hs <;> rw [hs] at hd <;> cases hd
      faultClear := fun hf => by
        rw [hcause, hpin, hop]
        exact h.faultClear (hfault.symm.trans hf)
      faultHeld := fun hf => ⟨hcause ▸ (h.faultHeld (hfault.symm.trans hf)).1, .inr hs⟩
      abortingTears := fun _ => hs
      responded := fun hr => absurd (hv.symm.trans hr) Bool.false_ne_true
      command := by rcases hs with hs | hs <;> simp [Ebc.CommandFits, hs]
      phase := by rcases hs with hs | hs <;> rw [hs] <;> rfl
      pins := by rcases hs with hs | hs <;> simp [Ebc.PinsFit, hs] }
  phase := .inl hph
  direction hr := absurd (hv.symm.trans hr) Bool.false_ne_true
  pads := hpads

/-! ### The pin primitives -/

/-- A primitive and what follows it: its fault ends the command. -/
theorem Ebc.Lawful.afterPins {α : Type} {r : Except PinFault α} {k : α → Ebc} (hc : e.Clear)
    (hcause : ∀ f, r = .error f → f.cause.isHardwareFault = true)
    (hdir : ∀ f, r = .error f → f.cause = .hwfDirection → e.ExecutesOnePin)
    (hk : ∀ a, e.Lawful p (k a)) : e.Lawful p (e.afterPins r k) := by
  cases r with
  | ok a => exact hk a
  | error f => exact .raiseFault hc (hcause f rfl) (hdir f rfl)

/-- A `cfg` fails by a port error only, so its success matters. -/
theorem Ebc.Lawful.cfg {md : Mode} {b : Bool} {k : Pins → Ebc} (hc : e.Clear)
    (hk : e.Lawful p (k (configurePins m md b e.pincfg))) :
    e.Lawful p (e.afterPins (cfgPins m md b x.portErr e.pincfg) k) := by
  rcases afterCfg_cases (x := x) (e := e) m md b k with h | ⟨_, _, _, h⟩ <;> rw [h]
  · exact hk
  · exact .raiseFault hc hwfPort_isHardwareFault

/-- So does a `set` of Output pins. -/
theorem Ebc.Lawful.set {k : Pins → Ebc} (hc : e.Clear)
    (hout : ∀ j, inMask m j = true → (pinAt e.pincfg j).isOutput = true)
    (hk : e.Lawful p (k (drivePins m v e.pincfg))) :
    e.Lawful p (e.afterPins (setPins m v x.portErr e.pincfg) k) := by
  rcases afterSet_cases (x := x) (e := e) m v k with ⟨_, h⟩ | ⟨j, hm, hj, _⟩ | ⟨_, _, _, h⟩
  · rw [h]
    exact hk
  · exact absurd (hj.symm.trans (hout j hm)) Bool.false_ne_true
  · rw [h]
    exact .raiseFault hc hwfPort_isHardwareFault

/-- So does a `get` of Input pins. -/
theorem Ebc.Lawful.get {k : PinMask → Ebc} (hc : e.Clear)
    (hin : ∀ j, inMask m j = true → (pinAt e.pincfg j).isInput = true) (hk : ∀ r, e.Lawful p (k r)) :
    e.Lawful p (e.afterPins (getPins m x.portErr x.sample e.pincfg) k) := by
  rcases afterGet_cases (x := x) (e := e) m k with ⟨_, h⟩ | ⟨j, hm, hj, _⟩ | ⟨_, _, _, h⟩
  · rw [h]
    exact hk _
  · exact absurd (hj.symm.trans (hin j hm)) Bool.false_ne_true
  · rw [h]
    exact .raiseFault hc hwfPort_isHardwareFault

/-! ## The micro-states -/

/-- A delay state counts within its delay, or acts where the count is 1 (42_bus_transfer.md R140). -/
theorem Ebc.Lawful.delay {par : Params} {act : Ebc → Ebc} (h : e.Inv p) (hc : e.Clear) (hd : e.seq.isDelay = true)
    (hact : e.Lawful p (act e)) : e.Lawful p (delayState par act e) := by
  obtain ⟨hpos, hle⟩ := h.cntCounts hd
  by_cases h1 : e.cnt = 1
  · rwa [delayState_one h1]
  · rw [delayState_more (by omega)]
    refine .goesOn hc ⟨?_, h.command, h.phase, h.pins⟩ .same .stays
    simp only [Ebc.CountFits, hd]
    omega

/-- In IDLE no pin is constrained. -/
theorem phaseRow_idle {ph : Phase} (h : ph = .idle) : PhaseRow ph q :=
  ⟨by simp [h], by simp [h]⟩

/-- The controls of an active phase (R125). -/
theorem activeControls_of_row {ph : Phase} (h : PhaseRow ph q) (hph : ph ≠ .idle) :
    pinAt q pinWE = .output .high ∧ (pinAt q pinOE).isOutput = true ∧ pinAt q pinCE = .output .low := by
  cases ph with
  | idle => exact absurd rfl hph
  | writeActive =>
    obtain ⟨_, _, hWE, hOE, hCE⟩ := h.1 rfl
    exact ⟨hWE, by rw [hOE]; rfl, hCE⟩
  | readActive =>
    obtain ⟨_, _, hWE, hOE, hCE⟩ := h.2 rfl
    exact ⟨hWE, by rw [hOE]; rfl, hCE⟩

theorem xCeNext_exit (h : e.cmd = encode .exit) : xCeNext e = some (e.complete 0) := by
  have hop : opcodeOf (encode .exit) = 0xA#4 := Laws.EncodeOpcode.exit
  simp [xCeNext, h, hop]

/-- Where X_CE goes on from the registers it has made (R123, R124). -/
theorem xCeNext_lawful {e₁ : Ebc} (hm : xCeNext e₁ = some e') (hc : e₁.Clear) (hcnt : e₁.cnt = 0)
    (hidle : e₁.phase = .idle)
    (hcmd : decode e₁.cmd = .ok .entw ∨ decode e₁.cmd = .ok .entr ∨ decode e₁.cmd = .ok .exit)
    (hpads : e.DrivesSafely e₁.pincfg) (hph : e.PhaseMoves e₁.phase) : e.Lawful p e' := by
  have hfits : (e₁.phase == .idle) = true := by simp [hidle]
  rcases hcmd with hd | hd | hd <;> obtain ⟨hw, _⟩ := encodeInvertsDecode _ _ hd
  · obtain rfl := Option.some.inj ((xCeNext_entw hw.symm).symm.trans hm)
    exact .goesOn hc ⟨hcnt, hd, hfits, trivial⟩ hpads hph
  · obtain rfl := Option.some.inj ((xCeNext_entr hw.symm).symm.trans hm)
    exact .goesOn hc ⟨hcnt, hd, hfits, trivial⟩ hpads hph
  · obtain rfl := Option.some.inj ((xCeNext_exit hw.symm).symm.trans hm)
    exact .complete hc hcnt (phaseRow_idle hidle) hpads hph

/-- T_REL (40_gpio.md R108): nothing stands but IDLE. -/
theorem teardownRelease_lawful (h : e.Inv p) (hs : e.seq = .tRel) : e.Lawful p e.teardownRelease where
  inv := {
    cntClear := fun _ => h.cntClear (by rw [hs]; rfl)
    cntCounts := nofun
    faultClear := fun _ => ⟨rfl, rfl, rfl⟩
    faultHeld := nofun
    abortingTears := nofun
    responded := fun _ => rfl
    command := trivial
    phase := rfl
    pins := fun _ => phaseRow_idle rfl }
  phase := .inr (.inr (.inr ⟨.inr hs, rfl⟩))
  direction _ hd := by cases ha : e.aborting <;> simp [ha] at hd
  pads _ _ := by simp [PinCfg.isOutput]

section
variable (h : e.Inv x.par) (hc : e.Clear)
include h hc

/-! ### P_EXEC (40_gpio.md R105 to R107) -/

theorem pExec_lawful (hs : e.seq = .pExec) (hm : pExec x e = some e') : e.Lawful x.par e' := by
  obtain ⟨hcnt, _, hph, _⟩ := h.fitsAt hs
  have hidle : e.phase = .idle := beq_iff_eq.mp hph
  have hdone (q : Pins) (d : Byte) : e.Lawful x.par ({ e with pincfg := q }.complete d) :=
    .complete hc hcnt (phaseRow_idle hidle) (fun hne => absurd hs hne) .stays
  unfold pExec at hm
  split at hm
  case h_4 => cases hm
  all_goals obtain rfl := Option.some.inj hm
  case h_1 =>
    refine .cfg hc ?_
    exact hdone _ _
  case h_2 n l hd =>
    exact .afterPins hc (fun _ => setPins_faults) (fun _ _ _ => ⟨hs, n, .inl ⟨l, hd⟩⟩) fun _ => hdone _ _
  case h_3 n hd =>
    exact .afterPins hc (fun _ => getPins_faults) (fun _ _ _ => ⟨hs, n, .inr hd⟩) fun _ => hdone _ _

/-! ### Leaving a phase (R123, R124) -/

theorem xOe_lawful (hs : e.seq = .xOe) : e.Lawful x.par (xOe x e) := by
  obtain ⟨hcnt, hcmd, hph, hpins⟩ := h.fitsAt hs
  obtain ⟨hWE, hOE, hCE⟩ := activeControls_of_row hpins (bne_iff_ne.mp hph)
  refine .set hc (maskPin_pins hOE) (.goesOn hc ⟨hcnt, hcmd, hph, ?_⟩ (.of_highOE (by simp)) .stays)
  simpa [Ebc.PinsFit] using ⟨hWE, hCE⟩

theorem xCe_lawful (hs : e.seq = .xCe) (hm : xCe x e = some e') : e.Lawful x.par e' := by
  obtain ⟨hcnt, hcmd, _, _, hOE, hCE⟩ := h.fitsAt hs
  rcases xCe_cases (x := x) (e := e) (by rw [hCE]; rfl) with hx | ⟨_, _, _, hx⟩ <;> rw [hx] at hm
  · exact xCeNext_lawful hm hc hcnt rfl hcmd (.of_highOE (by simpa using hOE)) (.inr (.inr (.inr ⟨.inl hs, rfl⟩)))
  · obtain rfl := Option.some.inj hm
    exact .raiseFault hc hwfPort_isHardwareFault

/-! ### Entering WriteActive (R121) -/

theorem ewCtl_lawful (hs : e.seq = .ewCtl) : e.Lawful x.par (ewCtl x e) := by
  obtain ⟨hcnt, hcmd, hph, _⟩ := h.fitsAt hs
  refine .cfg hc (.goesOn hc ⟨hcnt, hcmd, hph, ?_⟩ (.of_highOE (by simp)) .stays)
  simp [Ebc.PinsFit, ControlsHigh]

theorem ewAddr_lawful (hs : e.seq = .ewAddr) : e.Lawful x.par (ewAddr x e) := by
  obtain ⟨hcnt, hcmd, hph, hWE, hOE, hCE⟩ := h.fitsAt hs
  refine .cfg hc (.goesOn hc ⟨hcnt, hcmd, hph, ?_⟩ (.of_highOE (by simpa using hOE)) .stays)
  simp [Ebc.PinsFit, ControlsHigh, AddrLow, hWE, hOE, hCE]

theorem ewData_lawful (hs : e.seq = .ewData) : e.Lawful x.par (ewData x e) := by
  obtain ⟨hcnt, hcmd, hph, ⟨hWE, hOE, hCE⟩, hA⟩ := h.fitsAt hs
  refine .cfg hc (.goesOn hc ⟨hcnt, hcmd, hph, ?_⟩ (.of_highOE (by simpa using hOE)) .stays)
  simp [Ebc.PinsFit, ControlsHigh, AddrLow, DataLow, hWE, hOE, hCE, hA]

theorem ewCe_lawful (hs : e.seq = .ewCe) : e.Lawful x.par (ewCe x e) := by
  obtain ⟨hcnt, hcmd, hph, ⟨hWE, hOE, _⟩, hA, hD⟩ := h.fitsAt hs
  refine .cfg hc (.complete hc hcnt (WritePins.row ?_) (.of_highOE (by simpa using hOE)) (.inr (.inl ⟨hs, rfl⟩)))
  simp [WritePins, hWE, hOE, hA, hD]

/-! ### Entering ReadActive (R122) -/

theorem erData_lawful (hs : e.seq = .erData) : e.Lawful x.par (erData x e) := by
  obtain ⟨hcnt, hcmd, hph, _⟩ := h.fitsAt hs
  refine .cfg hc (.goesOn hc ⟨hcnt, hcmd, hph, ?_⟩ (.of_dataIn (by simp [DataIn])) .stays)
  simp [Ebc.PinsFit, DataIn]

theorem erCtl_lawful (hs : e.seq = .erCtl) : e.Lawful x.par (erCtl x e) := by
  obtain ⟨hcnt, hcmd, hph, hD⟩ := h.fitsAt hs
  refine .cfg hc (.goesOn hc ⟨hcnt, hcmd, hph, ?_⟩ (.of_highOE (by simp)) .stays)
  simp [Ebc.PinsFit, DataIn, ControlsHigh, hD _]

theorem erAddr_lawful (hs : e.seq = .erAddr) : e.Lawful x.par (erAddr x e) := by
  obtain ⟨hcnt, hcmd, hph, hD, hWE, hOE, hCE⟩ := h.fitsAt hs
  refine .cfg hc (.goesOn hc ⟨hcnt, hcmd, hph, ?_⟩ (.of_highOE (by simpa using hOE)) .stays)
  simp [Ebc.PinsFit, DataIn, ControlsHigh, AddrLow, hWE, hOE, hCE, hD _]

theorem erCe_lawful (hs : e.seq = .erCe) : e.Lawful x.par (erCe x e) := by
  obtain ⟨hcnt, hcmd, hph, hD, ⟨hWE, hOE, hCE⟩, hA⟩ := h.fitsAt hs
  refine .cfg hc (.goesOn hc ⟨hcnt, hcmd, hph, ?_⟩ (.of_highOE (by simpa using hOE)) .stays)
  simp [Ebc.PinsFit, DataIn, AddrLow, hWE, hOE, hD _, hA _]

theorem erOe_lawful (hs : e.seq = .erOe) : e.Lawful x.par (erOe x e) := by
  obtain ⟨hcnt, hcmd, hph, hD, hA, hWE, _, hCE⟩ := h.fitsAt hs
  refine .cfg hc (.complete hc hcnt (EnteredRead.row ?_) (.of_dataIn (by simpa [DataIn] using hD))
    (.inr (.inr (.inl ⟨hs, rfl⟩))))
  simp [EnteredRead, DataIn, AddrLow, hWE, hCE, hD _, hA _]

/-! ### The byte write (42_bus_transfer.md R141) -/

theorem wAddr_lawful (hs : e.seq = .wAddr) : e.Lawful x.par (wAddr x e) := by
  obtain ⟨hcnt, hcmd, hph, hA, hD, hWE, hOE, hCE⟩ := h.fitsAt hs
  refine .set hc (addr_pins hA) (.goesOn hc ⟨hcnt, hcmd, hph, ?_⟩ (.of_highOE (by simpa using hOE)) .stays)
  simp [Ebc.PinsFit, WritePins, hWE, hOE, hCE, hD]

theorem wData_lawful (hs : e.seq = .wData) : e.Lawful x.par (wData x e) := by
  obtain ⟨_, hcmd, hph, hA, hD, hWE, hOE, hCE⟩ := h.fitsAt hs
  refine .set hc (data_pins hD) (.goesOn hc ⟨⟨x.par.nSettle.pos, le_rfl⟩, hcmd, hph, ?_⟩
    (.of_highOE (by simpa using hOE)) .stays)
  simp [Ebc.PinsFit, WritePins, hWE, hOE, hCE, hA]

theorem wSettle_lawful (hs : e.seq = .wSettle) : e.Lawful x.par (wSettle x e) := by
  obtain ⟨_, hcmd, hph, hA, hD, hWE, hOE, hCE⟩ := h.fitsAt hs
  refine .delay h hc (by rw [hs]; rfl) (.set hc (maskPin_pins (by rw [hWE]; rfl))
    (.goesOn hc ⟨⟨x.par.nPulse.pos, le_rfl⟩, hcmd, hph, ?_⟩ (.of_highOE (by simpa using hOE)) .stays))
  simp [Ebc.PinsFit, hOE, hCE, hA, hD]

theorem wPulse_lawful (hs : e.seq = .wPulse) : e.Lawful x.par (wPulse x e) := by
  obtain ⟨_, hcmd, hph, hA, hD, hWE, hOE, hCE⟩ := h.fitsAt hs
  refine .delay h hc (by rw [hs]; rfl) (.set hc (maskPin_pins (by rw [hWE]; rfl))
    (.goesOn hc ⟨⟨x.par.nRecover.pos, le_rfl⟩, hcmd, hph, ?_⟩ (.of_highOE (by simpa using hOE)) .stays))
  simp [Ebc.PinsFit, WritePins, hOE, hCE, hA, hD]

theorem wRecover_lawful (hs : e.seq = .wRecover) : e.Lawful x.par (wRecover x e) := by
  obtain ⟨_, _, hph, hpins⟩ := h.fitsAt hs
  refine .delay h hc (by rw [hs]; rfl) (.complete hc rfl ?_ .same .stays)
  rw [show e.phase = .writeActive from beq_iff_eq.mp hph]
  exact WritePins.row hpins

/-! ### The byte read (42_bus_transfer.md R142) -/

theorem rAddr_lawful (hs : e.seq = .rAddr) : e.Lawful x.par (rAddr x e) := by
  obtain ⟨_, hcmd, hph, hA, hD, hWE, hOE, hCE⟩ := h.fitsAt hs
  refine .set hc (addr_pins hA) (.goesOn hc ⟨⟨x.par.nAccess.pos, le_rfl⟩, hcmd, hph, ?_⟩
    (.of_dataIn (by simpa [DataIn] using hD)) .stays)
  simp [Ebc.PinsFit, ReadPins, hWE, hOE, hCE, hD]

theorem rAccess_lawful (hs : e.seq = .rAccess) : e.Lawful x.par (rAccess x e) := by
  obtain ⟨_, hcmd, hph, hpins⟩ := h.fitsAt hs
  exact .delay h hc (by rw [hs]; rfl) (.goesOn hc ⟨rfl, hcmd, hph, hpins⟩ .same .stays)

theorem rSample_lawful (hs : e.seq = .rSample) : e.Lawful x.par (rSample x e) := by
  obtain ⟨hcnt, _, hph, hpins⟩ := h.fitsAt hs
  obtain ⟨_, hD, _⟩ := id hpins
  refine .get hc (data_pins fun i => by rw [hD i]; rfl) fun _ => .complete hc hcnt ?_ .same .stays
  rw [show e.phase = .readActive from beq_iff_eq.mp hph]
  exact ⟨nofun, fun _ => hpins⟩

end

/-- Every micro-state is lawful, a teardown's beside a fault too. -/
theorem microOp_lawful (h : e.Inv x.par) (hv : e.rspValid = false) (hne : e.seq ≠ .ready)
    (hm : microOp x e = some e') : e.Lawful x.par e' := by
  by_cases hT : e.seq = .tCtl
  · obtain rfl := Option.some.inj ((microOp_tCtl hT).symm.trans hm)
    exact .tearsDown h (.inr rfl) (h.cntClear (by rw [hT]; rfl)) hv ⟨rfl, rfl, rfl, rfl⟩ rfl fun _ =>
      TornFrom.dataDriveSafe (.inr rfl)
  by_cases hR : e.seq = .tRel
  · obtain rfl := Option.some.inj ((microOp_tRel hR).symm.trans hm)
    exact teardownRelease_lawful h hR
  have hc := h.clear_underWay hv hne hT hR
  cases hs : e.seq <;> simp only [microOp, hs, Option.some.injEq] at hm
  case ready => exact absurd hs hne
  case tCtl => exact absurd hs hT
  case tRel => exact absurd hs hR
  case pExec => exact pExec_lawful h hc hs hm
  case xCe => exact xCe_lawful h hc hs hm
  all_goals subst hm
  case xOe => exact xOe_lawful h hc hs
  case ewCtl => exact ewCtl_lawful h hc hs
  case ewAddr => exact ewAddr_lawful h hc hs
  case ewData => exact ewData_lawful h hc hs
  case ewCe => exact ewCe_lawful h hc hs
  case erData => exact erData_lawful h hc hs
  case erCtl => exact erCtl_lawful h hc hs
  case erAddr => exact erAddr_lawful h hc hs
  case erCe => exact erCe_lawful h hc hs
  case erOe => exact erOe_lawful h hc hs
  case wAddr => exact wAddr_lawful h hc hs
  case wData => exact wData_lawful h hc hs
  case wSettle => exact wSettle_lawful h hc hs
  case wPulse => exact wPulse_lawful h hc hs
  case wRecover => exact wRecover_lawful h hc hs
  case rAddr => exact rAddr_lawful h hc hs
  case rAccess => exact rAccess_lawful h hc hs
  case rSample => exact rSample_lawful h hc hs

/-! ## Acceptance -/

/-- The first checks answer ILLEGAL or REJECTED, or let a clear command go on (30_encoding.md R90). -/
theorem Ebc.Lawful.passChecks {isLegal : Bool} {go : Ebc → Ebc} (h : e.Inv p) (hs : e.seq = .ready)
    (hv : e.rspValid = false) (hgo : e.Clear → PhaseRow e.phase e.pincfg → e.Lawful p (go e)) :
    e.Lawful p (e.passChecks isLegal go) := by
  rcases e.passChecks_cases isLegal go with ⟨_, hc⟩ | ⟨_, _, hc⟩ | ⟨_, hf, hc⟩ <;> rw [hc]
  · exact .answer h hs (by nofun)
  · exact .answer h hs (by nofun)
  · have hrow := h.pins
    simp only [Ebc.PinsFit, hs] at hrow
    exact hgo (h.clear hv hf (by simp [hs]) (by simp [hs])) (hrow hf)

/-- The pin commands start P_EXEC in IDLE (60_exceptions.md R164). -/
theorem Ebc.Lawful.toPinExec {i : Instr} (hc : e.Clear) (hcnt : e.cnt = 0) (hd : decode e.cmd = .ok i)
    (hi : isPinCommand i = true) : e.Lawful p e.toPinExec := by
  rcases e.toPinExec_cases with ⟨hph, h⟩ | ⟨_, h⟩ <;> rw [h]
  · exact .goesOn hc ⟨hcnt, ⟨i, hd, hi⟩, by simp [hph, Seq.phaseFits], trivial⟩ .same .stays
  · exact .raiseFault hc hwfOwnership_isHardwareFault

/-- The phase commands start X_OE in an active phase (41_bus_phase.md R123, R124). -/
theorem Ebc.Lawful.toPhaseChange {fromIdle : Ebc → Ebc} (hc : e.Clear) (hcnt : e.cnt = 0)
    (hrow : PhaseRow e.phase e.pincfg)
    (hd : decode e.cmd = .ok .entw ∨ decode e.cmd = .ok .entr ∨ decode e.cmd = .ok .exit)
    (hidle : e.phase = .idle → e.Lawful p (fromIdle e)) : e.Lawful p (e.toPhaseChange fromIdle) := by
  rcases e.toPhaseChange_cases fromIdle with ⟨hph, h⟩ | ⟨hph, h⟩ <;> rw [h]
  · exact hidle hph
  · exact .goesOn hc ⟨hcnt, hd, by simpa [Seq.phaseFits] using hph, hrow⟩ .same .stays

/-- Every acceptance of a legal word is lawful (R121 to R123, 42_bus_transfer.md R141, R142). -/
theorem acceptInstr_lawful {i : Instr} (h : e.Inv p) (hs : e.seq = .ready) (hv : e.rspValid = false)
    (hd : decode e.cmd = .ok i) : e.Lawful p (acceptInstr i e) := by
  have hcnt : e.cnt = 0 := h.cntClear (by rw [hs]; rfl)
  cases i with
  | pcfg | pset | pget =>
    simp only [acceptInstr, acceptPcfg, acceptPset, acceptPget]
    exact .passChecks h hs hv fun hc _ => .toPinExec hc hcnt hd rfl
  | prel => exact .tearsDown h (.inl rfl) hcnt hv ⟨rfl, rfl, rfl, rfl⟩ rfl .same
  | entw =>
    rw [acceptInstr, acceptEntw]
    refine .passChecks h hs hv fun hc hrow => .toPhaseChange hc hcnt hrow (.inl hd) fun hph => ?_
    exact .goesOn hc ⟨hcnt, hd, by simp [hph, Seq.phaseFits], trivial⟩ .same .stays
  | entr =>
    rw [acceptInstr, acceptEntr]
    refine .passChecks h hs hv fun hc hrow => .toPhaseChange hc hcnt hrow (.inr (.inl hd)) fun hph => ?_
    exact .goesOn hc ⟨hcnt, hd, by simp [hph, Seq.phaseFits], trivial⟩ .same .stays
  | exit =>
    rw [acceptInstr, acceptExit]
    refine .passChecks h hs hv fun hc hrow => .toPhaseChange hc hcnt hrow (.inr (.inr hd)) fun hph => ?_
    exact .complete hc hcnt (phaseRow_idle hph) .same .stays
  | wrb a d =>
    rw [acceptInstr, acceptWrb]
    refine .passChecks h hs hv fun hc hrow => ?_
    split
    case isTrue hph => exact .goesOn hc ⟨hcnt, hd, by simp [hph, Seq.phaseFits], hrow.1 hph⟩ .same .stays
    case isFalse => exact .raiseFault hc hwfPhase_isHardwareFault
  | rdb a =>
    rw [acceptInstr, acceptRdb]
    refine .passChecks h hs hv fun hc hrow => ?_
    split
    case isTrue hph => exact .goesOn hc ⟨hcnt, hd, by simp [hph, Seq.phaseFits], hrow.2 hph⟩ .same .stays
    case isFalse => exact .raiseFault hc hwfPhase_isHardwareFault

/-- In READY the latched word belongs to no micro-state yet. -/
theorem Ebc.Lawful.of_latch {w : Word} (hs : e.seq = .ready) (h : (e.latch w).Lawful p e') : e.Lawful p e' where
  inv := h.inv
  phase := h.phase
  direction hv hst := by
    obtain ⟨hexec, _⟩ := h.direction hv hst
    rw [Ebc.latch_seq, hs] at hexec
    cases hexec
  pads := h.pads

/-- Every acceptance is lawful, of an ILLEGAL word too. -/
theorem accept_lawful (h : e.Inv p) (hs : e.seq = .ready) (hv : e.rspValid = false) (w : Word) :
    e.Lawful p (accept w e) := by
  refine .of_latch (w := w) hs ?_
  cases hd : decode w with
  | ok i =>
    rw [accept_ok hd]
    exact acceptInstr_lawful (h.latch hs w) hs hv hd
  | error r =>
    rw [accept_error hd]
    exact .answer (h.latch hs w) hs (by nofun)

/-! ## Edges -/

/-- The opening of an edge writes none of the registers that the rules read. -/
theorem Ebc.Lawful.of_openEdge {b : Bool} (h : (e.openEdge b).Lawful p e') : e.Lawful p e' :=
  ⟨h.inv, h.phase, h.direction, h.pads⟩

/-- Registers that only lose their response. -/
theorem Ebc.Lawful.waits (h : e.Inv p) (hv : e.rspValid = false) : e.Lawful p e :=
  ⟨h, .stays, fun hr => absurd (hv.symm.trans hr) Bool.false_ne_true, .same⟩

theorem ebcEdge_lawful {inp : EdgeIn} (h : e.Inv x.par) (he : ebcEdge x inp e = some e') : e.Lawful x.par e' := by
  rcases ebcEdge_some he with ⟨_, _, rfl⟩ | ⟨hs, _, _, rfl⟩ | ⟨_, _, _, rfl⟩ | ⟨hs, _, hm⟩
  · exact .of_openEdge (.tearsDown (h.openEdge true) (.inl rfl) rfl rfl ⟨rfl, rfl, rfl, rfl⟩ rfl .same)
  · exact .of_openEdge (accept_lawful (h.openEdge false) hs rfl _)
  · exact .of_openEdge (.waits (h.openEdge inp.abort) rfl)
  · exact .of_openEdge (microOp_lawful (h.openEdge inp.abort) rfl hs hm)

end

section
variable {s t : State}

theorem State.Inv.atEdge (h : s.Inv) : s.atEdge.Inv s.par := by
  rcases s.atEdge_cases with ⟨_, he⟩ | ⟨_, he⟩ <;> rw [he]
  · exact h.ebc
  · exact Ebc.inv_reset

/-- Every edge is lawful from the registers that it finds, with a reset in its cycle or not. -/
theorem edge_lawful (h : s.Inv) (he : edge s = .next t) : ∃ e, t = s.advance e ∧ s.atEdge.Lawful s.par e := by
  rcases edge_next he with ⟨hr, rfl⟩ | ⟨_, e, hebc, rfl⟩
  · have hreset : s.atEdge = Ebc.reset := State.atEdge_fallen fun hhigh =>
      absurd (hr.symm.trans (rstN_of_high hhigh)) Bool.false_ne_true
    refine ⟨_, rfl, ?_⟩
    rw [hreset]
    exact .waits Ebc.inv_reset rfl
  · exact ⟨e, rfl, ebcEdge_lawful (x := s.ctx) h.atEdge hebc⟩

/-! ### The device's part of the invariant -/

/-- Every edge keeps the device's part (20_memory.md R58): a pulse starts only where no write cycle runs, and a write
cycle starts only where a pulse ends. -/
theorem Device.Inv.devStep (h : s.dev.Inv s.par) : s.devStep.Inv s.par := by
  obtain ⟨hmem, hapart, _, hcycle⟩ := h
  have hwf := State.wf_devStep hmem
  have hpos := s.par.dWc.pos
  suffices hpulse : ((s.devPulse s.devWriteCycle).inPulse = true → (s.devPulse s.devWriteCycle).wcLeft = 0) ∧
      ((s.devPulse s.devWriteCycle).inPulse = true → 1 ≤ (s.devPulse s.devWriteCycle).pLen) ∧
      (s.devPulse s.devWriteCycle).wcLeft < s.par.dWc by
    obtain ⟨hapart', hlen', hcycle'⟩ := hpulse
    exact ⟨hwf, by simpa using hapart', by simpa using hlen', by simpa using hcycle'⟩
  cases hin : s.dev.inPulse <;> cases hon : s.pulseOn
  · rw [State.devPulse_none hin hon]
    exact ⟨by simp [hin], by simp [hin], by rw [State.devWriteCycle_wcLeft]; omega⟩
  · rw [State.devPulse_start hin hon, State.devPulseStart]
    split
    case isTrue hrest => simp [hrest]
    case isFalse => exact ⟨by simp [hin], by simp [hin], by rw [State.devWriteCycle_wcLeft]; omega⟩
  · rw [State.devPulse_end hin hon, State.devPulseEnd_eq]
    split
    · simp [State.pulseLatched, hapart hin]
    · simp [State.pulseLatched]
  · rw [State.devPulse_body hin hon, State.devPulseBody]
    simp [hapart hin]

/-! ## The statements -/

/-- Settles O55: the EBC's part is kept by every lawful action, and the device's by its step. -/
theorem invariantKeptByEdge : Obligations.InvariantKeptByEdge := by
  intro s t h he
  obtain ⟨e, rfl, hlaw⟩ := edge_lawful h he
  exact ⟨hlaw.inv, h.dev.devStep⟩

/-- What every edge keeps, a run of edges keeps. -/
theorem edges_keeps {P : State → Prop} (hP : ∀ s t, P s → edge s = .next t → P t) {n : Nat} (hs : P s)
    (h : edges n s = .next t) : P t := by
  induction n generalizing s with
  | zero =>
    obtain rfl : s = t := by simpa using h
    exact hs
  | succ n ih =>
    cases he : edge s with
    | next u =>
      rw [edges_succ_of_next he] at h
      exact ih (hP s u hs he) h
    | fault f => simp [edges, he] at h
    | refused r => simp [edges, he] at h

/-- Settles O56: a step is a number of edges. -/
theorem invariantKeptByStep : Obligations.InvariantKeptByStep := by
  intro s t h hstep
  obtain ⟨n, _, hn⟩ := step_eq_edges s
  exact edges_keeps invariantKeptByEdge h (hn.symm.trans hstep)

/-- A fall of `rst_n` releases every pin (70_reset_and_hazards.md R190). -/
theorem State.atEdge_dataDriveSafe (h : DataDriveSafe s.ebc.pincfg) : DataDriveSafe s.atEdge.pincfg := by
  rcases s.atEdge_cases with ⟨_, he⟩ | ⟨_, he⟩ <;> rw [he]
  · exact h
  · rintro ⟨i, hi⟩
    simp [Ebc.reset, pinAt, PinCfg.isOutput] at hi

/-- Settles O52: the action is safe on the pads, and pads on which no data line is driven against the device add nothing
to BUS_CONTENTION. -/
theorem sequencesNeverContend : Obligations.SequencesNeverContend := by
  intro s t h hsafe hne he
  obtain ⟨e, rfl, hlaw⟩ := edge_lawful h he
  have hseq : s.atEdge.seq ≠ .pExec := fun hs => by
    rw [State.atEdge_inFlight (by simp [hs])] at hs
    exact hne hs
  exact ⟨hlaw.pads hseq (State.atEdge_dataDriveSafe hsafe), by simp [State.contends_of_safe hsafe]⟩

/-- Settles O37: an edge that finds P_EXEC finds the registers as the last edge left them. -/
theorem sequencesKeepDirection : Obligations.SequencesKeepDirection := by
  intro s t h he hv hst
  obtain ⟨e, rfl, hlaw⟩ := edge_lawful h he
  obtain ⟨hs, hcmd⟩ := hlaw.direction hv hst
  have hfound : s.atEdge = s.ebc := State.atEdge_inFlight (by simp [hs])
  rw [hfound] at hs hcmd
  exact ⟨hs, hcmd⟩

/-- Settles O38: without a reset `PHASE` moves as a lawful action moves it, from the phase that the micro-state runs in;
in a cycle with a reset it ends at IDLE. -/
theorem phaseChangesOnlyOnItsEdges : Obligations.PhaseChangesOnlyOnItsEdges := by
  intro s t h he hne
  obtain ⟨e, rfl, hlaw⟩ := edge_lawful h he
  have hmoves := hlaw.phase
  rcases s.atEdge_cases with ⟨_, hfound⟩ | ⟨hr, hfound⟩ <;> rw [hfound] at hmoves
  · have hfits := h.ebc.phase
    rcases hmoves with hsame | ⟨hs, hph⟩ | ⟨hs, hph⟩ | ⟨hs | hs, hph⟩
    · exact absurd hsame hne
    · exact .inl ⟨by simpa [hs, Seq.phaseFits] using hfits, hph, hs⟩
    · exact .inr (.inl ⟨by simpa [hs, Seq.phaseFits] using hfits, hph, hs⟩)
    · exact .inr (.inr (.inl ⟨by simpa [hs, Seq.phaseFits] using hfits, hph, hs⟩))
    · exact .inr (.inr (.inr (.inl ⟨hph, hs⟩)))
  · have hidle : e.phase = .idle := by simpa [Ebc.PhaseMoves, Ebc.reset] using hmoves
    exact .inr (.inr (.inr (.inr ⟨hidle, hr⟩)))

end

end Sys2Proof.Machine
end

section
/-! The phase commands ENTW, ENTR and EXIT with quiet inputs (spec/41_bus_phase.md R121 to R124): from an active phase
X_OE and X_CE first, then the entry sequence; the pads in between are never worse for the device than those at the
start. -/

namespace Sys2Proof.Machine

/-! ## Pads no worse than those at the start -/

/-- Where the pads `p` exclude a write pulse, or drive no data line against the device, the pads `q` do too. -/
def NoWorse (fp : FloatPolicy) (p q : Pins) : Prop :=
  (PulseExcluded fp p → PulseExcluded fp q) ∧ (DataDriveSafe p → DataDriveSafe q)

section
variable {fp : FloatPolicy} {p q : Pins} {n : Nat} {s t : State} {e : Ebc} {i : Instr}

theorem NoWorse.refl : NoWorse fp p p := ⟨id, id⟩

theorem NoWorse.of_high (hWE : pinAt q pinWE = .output .high) (hOE : pinAt q pinOE = .output .high) : NoWorse fp p q :=
  ⟨fun _ => .of_high hWE, fun _ _ => hOE⟩

/-- ER_DATA (R122) releases the data lines and moves no control line. -/
theorem NoWorse.dataReleased (h : NoWorse fp p q) : NoWorse fp p (configurePins maskData .input true q) :=
  ⟨fun hp => by simpa [PulseExcluded] using h.1 hp, fun _ => .of_dataIn (by simp [DataIn])⟩

/-- In an active phase the row drives data lines only with OE̅ High (R125, R127). -/
theorem PhaseRow.dataDriveSafe {ph : Phase} (h : PhaseRow ph p) (hph : ph ≠ .idle) : DataDriveSafe p := by
  cases ph with
  | idle => exact absurd rfl hph
  | writeActive =>
    obtain ⟨_, _, _, hOE, _⟩ := h.1 rfl
    exact fun _ => hOE
  | readActive =>
    obtain ⟨_, hD, _⟩ := h.2 rfl
    exact .of_dataIn hD

/-- What such pads leave of the device: the cells, and BUS_CONTENTION. -/
theorem Flight.noWorse (f : Flight (NoWorse s.par.floatPolicy s.ebc.pincfg) n (s.advance e) t) :
    (s.atRest → s.writeOff → SameCells s t ∧ t.atRest) ∧
      (DataDriveSafe s.ebc.pincfg → t.dev.contention = s.dev.contention) := by
  refine ⟨fun hr hoff => ?_, fun hsafe => (f.mono fun _ hq => hq.2 hsafe).sameContention hsafe⟩
  have f' : Flight (PulseExcluded s.par.floatPolicy) n (s.advance e) t := f.mono fun _ hq => hq.1 hoff
  obtain ⟨hpulse, hcycle, _⟩ := State.devStep_rest hr (State.pulseOn_of_writeOff hoff)
  exact ⟨f'.sameCells hr hoff, (f'.rest rfl ⟨hpulse, hcycle⟩).1⟩

/-! ## Up to the entry sequence -/

/-- X_OE and X_CE from an active phase (R123), with the next micro-state or the completion that the command asks for. -/
theorem leave_active (hq : s.quiet) (hph : s.ebc.phase ≠ .idle) (hrow : PhaseRow s.ebc.phase s.ebc.pincfg)
    (hnext : xCeNext { s.latched i with
      pincfg := drivePins (maskPin pinCE) (maskPin pinCE) (drivePins (maskPin pinOE) (maskPin pinOE) s.ebc.pincfg)
      phase := .idle
      seq := .xCe } = some e) :
    Leads (NoWorse s.par.floatPolicy s.ebc.pincfg) 2 (s.advance { s.latched i with seq := .xOe }) e := by
  obtain ⟨hWE, hOE, hCE⟩ := activeControls_of_row hrow hph
  exact leads_leave (calm_accepted hq) rfl hOE (by simp [hCE]) .refl (.of_high (by simpa using hWE) (by simp)) hnext

/-- ENTW and ENTR up to the first micro-state `q` of their entry sequences: none from IDLE, X_OE and X_CE from an active
phase (R124). -/
theorem reach_entry (hq : s.quiet) (hrow : PhaseRow s.ebc.phase s.ebc.pincfg) {q : Seq}
    (hacc : s.accepted i = (s.latched i).toPhaseChange fun e => { e with seq := q })
    (hnext : ∀ e, e.cmd = encode i → xCeNext e = some { e with seq := q }) :
    ∃ p, NoWorse s.par.floatPolicy s.ebc.pincfg p ∧
      Leads (NoWorse s.par.floatPolicy s.ebc.pincfg) (if s.ebc.phase = .idle then 0 else 2) (s.advance (s.accepted i))
        { s.latched i with pincfg := p, phase := .idle, seq := q } := by
  rcases (s.latched i).toPhaseChange_cases fun e => { e with seq := q } with ⟨hph, hgo⟩ | ⟨hph, hgo⟩ <;>
    rw [State.latched_phase] at hph <;> rw [hacc, hgo]
  · refine ⟨s.ebc.pincfg, .refl, ?_⟩
    rw [if_pos hph, ← hph]
    exact .here
  · obtain ⟨hWE, _, _⟩ := activeControls_of_row hrow hph
    rw [if_neg hph]
    exact ⟨_, .of_high (by simpa using hWE) (by simp), leave_active hq hph hrow (hnext _ rfl)⟩

/-- Completion in the phase `ph`, as a whole register file. -/
theorem State.latched_complete (s : State) (i : Instr) (p : Pins) (ph : Phase) (q : Seq) :
    { s.latched i with pincfg := p, phase := ph, seq := q }.complete 0 =
      { s.ebc.done (encode i) 0 with pincfg := p, phase := ph } := by
  simp [State.latched, Ebc.openEdge, Ebc.latch, Ebc.complete, Ebc.respond, Ebc.done]

/-- A whole ENTW or ENTR, given its entry sequence: `m` edges from micro-state `q` that end in phase `ph` with pins
`E`. -/
theorem phase_entered {ph : Phase} {q : Seq} {m : Nat} {E : Pins → Prop} (hq : s.quiet) (hs : s.ebc.seq = .ready)
    (hrow : PhaseRow s.ebc.phase s.ebc.pincfg)
    (hacc : s.accepted i = (s.latched i).toPhaseChange fun e => { e with seq := q })
    (hnext : ∀ e, e.cmd = encode i → xCeNext e = some { e with seq := q }) (hm : m ≤ 6)
    (hentry : ∀ u : State, u.Calm → u.ebc.seq = q → NoWorse s.par.floatPolicy s.ebc.pincfg u.ebc.pincfg →
      ∃ p, E p ∧ Leads (NoWorse s.par.floatPolicy s.ebc.pincfg) m u
        ({ u.ebc with pincfg := p, phase := ph }.complete 0)) :
    ∃ t, exec i s = .next t ∧ Took ((if s.ebc.phase = .idle then 0 else 2) + m + 1) s t ∧
      t.ebc = { s.ebc.done (encode i) 0 with pincfg := t.ebc.pincfg, phase := ph } ∧ E t.ebc.pincfg ∧
      (s.atRest → s.writeOff → SameCells s t ∧ t.atRest) ∧
      (DataDriveSafe s.ebc.pincfg → t.dev.contention = s.dev.contention) := by
  obtain ⟨p, hp, u, f, hu⟩ := reach_entry hq hrow hacc hnext
  have hcalm : u.Calm := ⟨f.quiet (quiet_advance hq _), by rw [hu]; rfl, by rw [hu]; exact Bool.and_false _⟩
  obtain ⟨p', hE, t, f', ht⟩ := hentry u hcalm (by rw [hu]) (by rwa [hu])
  have hebc : t.ebc = { s.ebc.done (encode i) 0 with pincfg := p', phase := ph } := by
    rw [ht, hu]
    exact s.latched_complete i p' ph q
  have hflight := f.trans f'
  have hbound : (if s.ebc.phase = .idle then 0 else 2) + m ≤ 8 := by split <;> omega
  refine ⟨t, exec_of_flight hq hs hflight (by rw [hebc]; rfl) (by omega), hflight.took.after_advance, ?_, ?_,
    hflight.noWorse⟩
  · rw [hebc]
  · rwa [hebc]

/-! ## EXIT -/

theorem accepted_exit (hf : s.ebc.fault = false) :
    s.accepted .exit = (s.latched .exit).toPhaseChange fun e => e.complete 0 := by
  rw [State.accepted, acceptInstr, acceptExit, passChecks_ok (by simpa using hf)]

/-- EXIT in IDLE is its accepting edge. -/
theorem exit_idle (hq : s.quiet) (hs : s.ebc.seq = .ready) (hf : s.ebc.fault = false) (hph : s.ebc.phase = .idle) :
    exec .exit s = .next (s.advance (s.ebc.done (encode .exit) 0)) := by
  have hdone : s.accepted .exit = s.ebc.done (encode .exit) 0 := by
    rw [accepted_exit hf, Ebc.toPhaseChange, if_pos (by simpa using hph)]
    simp [State.latched, Ebc.openEdge, Ebc.latch, Ebc.complete, Ebc.respond, Ebc.done]
  rw [← hdone]
  exact exec_of_flight (C := fun _ => True) hq hs (.here _) (by rw [hdone]; rfl) (by omega)

/-- EXIT in an active phase is its accepting edge, X_OE and X_CE. -/
theorem exit_active (hq : s.quiet) (hs : s.ebc.seq = .ready) (hf : s.ebc.fault = false)
    (hrow : PhaseRow s.ebc.phase s.ebc.pincfg) (hph : s.ebc.phase ≠ .idle) :
    ∃ t, exec .exit s = .next t ∧ Took 3 s t ∧
      t.ebc = { s.ebc.done (encode .exit) 0 with pincfg := t.ebc.pincfg, phase := .idle } ∧
      (∀ k, pinAt t.ebc.pincfg k = if k = pinOE ∨ k = pinCE then .output .high else pinAt s.ebc.pincfg k) ∧
      (s.atRest → SameCells s t) ∧ t.dev.contention = s.dev.contention := by
  have hacc : s.accepted .exit = { s.latched .exit with seq := .xOe } := by
    rw [accepted_exit hf, Ebc.toPhaseChange, if_neg (by simpa using hph)]
  obtain ⟨hWE, _, _⟩ := activeControls_of_row hrow hph
  obtain ⟨t, f, ht⟩ := leave_active (i := .exit) hq hph hrow (xCeNext_exit rfl)
  rw [← hacc] at f
  rw [s.latched_complete] at ht
  obtain ⟨hcells, hcontention⟩ := f.noWorse
  refine ⟨t, exec_of_flight hq hs f (by rw [ht]; rfl) (by omega), f.took.after_advance, by rw [ht], fun k => ?_,
    fun hr => (hcells hr ((writeOff_iff s).mpr (.of_high hWE))).1, hcontention (hrow.dataDriveSafe hph)⟩
  rw [ht]
  by_cases hCE : k = pinCE <;> by_cases hOE : k = pinOE <;> simp [hCE, hOE]

end

/-! ## The statements -/

/-- Settles O39: EW_CTL, EW_ADDR, EW_DATA and EW_CE end in exactly the pins of R121, and from EW_ADDR on WE̅ and OE̅ are
High. -/
theorem entwEntersWriteActive : Obligations.EntwEntersWriteActive := by
  intro s hq hs hf hrow
  obtain ⟨t, hexec, htook, h⟩ := phase_entered (E := EnteredWrite) hq hs hrow (accepted_entw hf) (fun _ => xCeNext_entw)
    (by decide) fun u hcalm hseq hpads => leads_enterWrite hcalm hseq hpads
      fun _ ⟨hWE, hOE, _⟩ => NoWorse.of_high hWE hOE
  exact ⟨t, hexec, by split_ifs at htook ⊢ <;> exact htook, h⟩

/-- Settles O40: ER_DATA to ER_OE end in exactly the pins of R122; after ER_DATA no data line is driven, and from
ER_ADDR on WE̅ is High. -/
theorem entrEntersReadActive : Obligations.EntrEntersReadActive := by
  intro s hq hs hf hrow
  obtain ⟨t, hexec, htook, h⟩ := phase_entered (E := EnteredRead) hq hs hrow (accepted_entr hf) (fun _ => xCeNext_entr)
    (by decide) fun u hcalm hseq hpads => leads_enterRead hcalm hseq hpads hpads.dataReleased
      fun _ _ hWE hOE => NoWorse.of_high hWE hOE
  exact ⟨t, hexec, by split_ifs at htook ⊢ <;> exact htook, h⟩

/-- Settles O41: in IDLE it ends on its accepting edge; in an active phase X_OE and X_CE set one line each, and the row
of the phase has WE̅ High and no data line driven against the device. -/
theorem exitLeavesThePhase : Obligations.ExitLeavesThePhase :=
  fun _ hq hs hf hrow => ⟨exit_idle hq hs hf, exit_active hq hs hf hrow⟩

end Sys2Proof.Machine
end

section
/-! The transfers WRB and RDB with quiet inputs, and the delay they count (spec/42_bus_transfer.md R140 to R144): a delay
state counts whatever its pins are, and leaves even where its action faults; the pads of a WRB after any number of edges
are read off the flights of its pad trace. -/

namespace Sys2Proof.Machine

/-! ## A delay state (R140) -/

section
variable {x : EdgeCtx} {e : Ebc} {s : State}

/-- A `set` leaves its micro-state `q` if what follows it does: a fault leaves for READY. -/
theorem afterSet_leaves {q : Seq} {m v : PinMask} {k : Pins → Ebc} (hk : (k (drivePins m v e.pincfg)).seq ≠ q)
    (hq : .ready ≠ q) : (e.afterPins (setPins m v x.portErr e.pincfg) k).seq ≠ q := by
  rcases afterSet_cases m v k with ⟨_, h⟩ | ⟨_, _, _, h⟩ | ⟨_, _, _, h⟩ <;> rw [h]
  · exact hk
  all_goals exact hq

/-- Where the count is 1 a delay state acts, and whatever its action answers it leaves. -/
theorem microOp_delay_leaves (hd : e.seq.isDelay = true) (hc : e.cnt = 1) :
    ∃ e', microOp x e = some e' ∧ e'.seq ≠ e.seq := by
  cases hs : e.seq with
  | wSettle =>
    refine ⟨wSettle x e, by simp only [microOp, hs], ?_⟩
    rw [wSettle, delayState_one hc]
    exact afterSet_leaves nofun nofun
  | wPulse =>
    refine ⟨wPulse x e, by simp only [microOp, hs], ?_⟩
    rw [wPulse, delayState_one hc]
    exact afterSet_leaves nofun nofun
  | wRecover => exact ⟨wRecover x e, by simp only [microOp, hs], by simp [wRecover, delayState_one hc]⟩
  | rAccess => exact ⟨rAccess x e, by simp only [microOp, hs], by simp [rAccess, delayState_one hc]⟩
  | _ => simp [hs, Seq.isDelay] at hd

theorem Seq.ne_ready_of_isDelay {q : Seq} (hd : q.isDelay = true) : q ≠ .ready := by
  rintro rfl
  cases hd

/-- A quiet edge in a delay state, from any registers. -/
theorem edge_delay (hq : s.quiet) (hd : s.ebc.seq.isDelay = true)
    (hm : microOp s.ctx (s.ebc.openEdge false) = some e) : edge s = .next (s.advance e) := by
  obtain ⟨hr, ha, _⟩ := input_quiet hq
  rw [edge_micro hr ha (Seq.ne_ready_of_isDelay hd), hm]

/-- A delay state with `CNT = n + 1` holds through `n` edges. -/
theorem edges_delay {n m : Nat} (hq : s.quiet) (hd : s.ebc.seq.isDelay = true) (hcnt : s.ebc.cnt = n + 1)
    (hm : m ≤ n) : ∃ t, edges m s = .next t ∧ t.quiet ∧ t.ebc.seq = s.ebc.seq ∧ t.ebc.cnt = n + 1 - m ∧
      t.ebc.pincfg = s.ebc.pincfg := by
  induction m with
  | zero => exact ⟨s, rfl, hq, rfl, hcnt, rfl⟩
  | succ m ih =>
    obtain ⟨t, ht, htq, hseq, htcnt, hpins⟩ := ih (by omega)
    have htd : t.ebc.seq.isDelay = true := hseq ▸ hd
    have hmore : 1 < (t.ebc.openEdge false).cnt := by
      rw [Ebc.openEdge_cnt]
      omega
    have hedge := edge_delay htq htd (microOp_counts htd hmore)
    refine ⟨_, (edges_add ht 1).trans ((edges_one t).trans hedge), quiet_advance htq _, hseq, ?_, hpins⟩
    rw [State.advance_ebc, Ebc.openEdge_cnt, htcnt, Nat.sub_sub]

end

/-- Settles O15: `n` edges count down to 1, and the edge after them leaves. -/
theorem delayHoldsExactly : Obligations.DelayHoldsExactly := by
  intro s n hq hd hcnt
  refine ⟨fun m hm => ?_, ?_⟩
  · obtain ⟨t, ht, _, h⟩ := edges_delay hq hd hcnt hm
    exact ⟨t, ht, h⟩
  · obtain ⟨t, ht, htq, hseq, htcnt, _⟩ := edges_delay hq hd hcnt (le_refl n)
    have htd : t.ebc.seq.isDelay = true := hseq ▸ hd
    obtain ⟨e, he, hleaves⟩ := microOp_delay_leaves (x := t.ctx) (e := t.ebc.openEdge false) htd (by simp [htcnt])
    exact ⟨_, (edges_add ht 1).trans ((edges_one t).trans (edge_delay htq htd he)), hseq ▸ hleaves⟩

/-! ## Whole transfers (R141 to R143) -/

section
variable {a d : Byte} {l : Level} {p : Pins}

theorem WritePins.dataDriveSafe (h : WritePins p) : DataDriveSafe p := h.row.dataDriveSafe (by decide)

theorem ReadPins.dataDriveSafe (h : ReadPins p) : DataDriveSafe p := by
  obtain ⟨_, hD, _⟩ := h
  exact .of_dataIn hD

theorem WriteLines.dataDriveSafe (h : WriteLines a d l p) : DataDriveSafe p := by
  obtain ⟨_, _, _, hOE, _⟩ := h
  exact fun _ => hOE

theorem ReadLines.readPins (h : ReadLines a p) : ReadPins p := by
  obtain ⟨hA, hrest⟩ := h
  exact ⟨fun i => by rw [hA i]; rfl, hrest⟩

/-- Completion of a transfer, as a whole register file. -/
theorem State.latched_transferred (s : State) (i : Instr) (p : Pins) (a d r b : Byte) (q : Seq) :
    { s.latched i with pincfg := p, addrR := a, wdataR := d, rdataR := r, cnt := 0, seq := q }.complete b =
      { s.ebc.done (encode i) b with pincfg := p, addrR := a, wdataR := d, rdataR := r, cnt := 0 } := by
  simp [State.latched, Ebc.openEdge, Ebc.latch, Ebc.complete, Ebc.respond, Ebc.done]

end

/-- Settles O42: the flights of the pad trace one after the other, beside pads that are never driven against the
device. -/
theorem wrbDrivesAndCompletes : Obligations.WrbDrivesAndCompletes := by
  intro s a d hq hs hf hph hp
  obtain ⟨t₁, t₂, t₃, t, hexec, f₁, f₂, f₃, f₄, hlines, ht⟩ := wrb_runs hq hs hf hph hp a d
  have f := (((f₁.mono fun _ => WritePins.dataDriveSafe).trans (f₂.mono fun _ => WriteLines.dataDriveSafe)).trans
    (f₃.mono fun _ => WriteLines.dataDriveSafe)).trans (f₄.mono fun _ => WriteLines.dataDriveSafe)
  have htook := f.took.after_advance
  obtain ⟨hA, hD, hWE, hOE, hCE⟩ := hlines
  refine ⟨t, hexec, ?_, ?_, hA, hD, hWE, hOE, hCE, f.sameContention hp.dataDriveSafe⟩
  · rwa [show 3 + (s.par.nSettle : Nat) + s.par.nPulse + s.par.nRecover =
      2 + s.par.nSettle + s.par.nPulse + s.par.nRecover + 1 by omega]
  · exact ht.trans (s.latched_transferred (.wrb a d) _ a d s.ebc.rdataR 0 .wAddr)

/-- Settles O46: R_SAMPLE takes the byte beside the operand's address, which has stood on its lines for N_ACCESS
cycles, and WE̅ is High throughout. -/
theorem rdbReadsItsCell : Obligations.RdbReadsItsCell := by
  intro s a hq hs hf hph hp
  obtain ⟨t₁, t₂, t, hexec, f₁, f₂, f₃, hlines, hkeep, ht⟩ := rdb_runs hq hs hf hph hp a
  have f := (f₁.trans (f₂.mono fun _ => ReadLines.readPins)).trans (f₃.mono fun _ => ReadLines.readPins)
  have htook := f.took.after_advance
  have hdata : t.ebc.rspData = t₂.dataSampled := by rw [ht]; rfl
  obtain ⟨hA, _⟩ := hlines
  have hexcluded : ∀ q, ReadPins q → PulseExcluded s.par.floatPolicy q := fun _ ⟨_, _, hWE, _⟩ => .of_high hWE
  have hoff : s.writeOff := (writeOff_iff s).mpr (hexcluded _ hp)
  have hrest := fun hr : s.atRest => State.devStep_rest hr (State.pulseOn_of_writeOff hoff)
  refine ⟨t, hexec, ?_, ?_, hA, hkeep, (f.mono fun _ => ReadPins.dataDriveSafe).sameContention hp.dataDriveSafe,
    fun hr => ?_, fun hr hacc => ?_⟩
  · rwa [show 3 + (s.par.nAccess : Nat) = 1 + s.par.nAccess + 1 + 1 by omega]
  · rw [hdata]
    exact ht.trans (s.latched_transferred (.rdb a) _ a s.ebc.wdataR _ _ .rAddr)
  · obtain ⟨hpulse, hcycle, _⟩ := hrest hr
    exact ⟨(f.mono hexcluded).sameCells hr hoff, ((f.mono hexcluded).rest rfl ⟨hpulse, hcycle⟩).1⟩
  · obtain ⟨hpulse, hcycle, hmem⟩ := hrest hr
    obtain ⟨hrest₁, hmem₁⟩ := (f₁.mono hexcluded).rest rfl ⟨hpulse, hcycle⟩
    have hpar₂ : t₂.par = s.par := f₂.took.1.trans f₁.took.1
    have haccess : Accessing s.dev.mem a s.par.nAccess t₂ :=
      f₂.carries_from_first (fun e => Accessing.first e hrest₁ (hmem₁.trans hmem)) (fun _ _ e hq h => h.next e hq)
        s.par.nAccess.pos
    rw [hdata]
    exact (haccess.dataSampled (by rwa [hpar₂]) f₃.first).trans (State.cell_congr hpar₂ haccess.mem a)

/-! ## The pad trace of a WRB (R143, R144) -/

section
variable {C : Pins → Prop} {n k : Nat} {s t : State}

theorem Flight.edges (f : Flight C n s t) : edges n s = .next t := by
  induction f with
  | here => rfl
  | step _ _ he _ ih => rw [edges_succ_of_next he, ih]

/-- The part of a flight before its end: the pads are the flight's, and its command is not done. -/
theorem Flight.during (f : Flight C n s t) (hk : k < n) : ∃ u, Flight C k s u ∧ C u.ebc.pincfg ∧ u.ebc.seq ≠ .ready := by
  induction f generalizing k with
  | here => omega
  | step hs hC he _ ih =>
    cases k with
    | zero => exact ⟨_, .here _, hC, fun h => hs (State.atEdge_ready h)⟩
    | succ k =>
      obtain ⟨u, f, h⟩ := ih (Nat.lt_of_succ_lt_succ hk)
      exact ⟨u, .step hs hC he f, h⟩

/-- In a flight with no reset to come a response is there exactly in READY (30_encoding.md R91). -/
theorem Flight.answeredAtReady (f : Flight C n s t) (hu : s.undisturbed) (hs : s.ebc.AnsweredAtReady) :
    t.ebc.AnsweredAtReady := by
  induction f with
  | here => exact hs
  | @step s _ _ e hflies _ he _ ih =>
    have hresponse := (responseHolds.1 s _ (rstN_of_high (input_undisturbed hu).1) he).1
    exact ih (undisturbed_advance hu e) (hresponse.trans (and_iff_left (.inl hflies)))

end

section
variable {par : Params} {n k : Nat} {a d : Byte} {p₀ p : Pins} {s t₁ t₂ t₃ t : State}

/-- The edge, counted from the acceptance at 0, on which a WRB ends (R143). -/
abbrev wrbEnd (par : Params) : Nat := 2 + (par.nSettle : Nat) + par.nPulse + par.nRecover

/-- The level of WE̅ after edge `n` of a WRB (R144). -/
abbrev wrbLevel (par : Params) (n : Nat) : Level :=
  if 2 + (par.nSettle : Nat) ≤ n ∧ n < 2 + (par.nSettle : Nat) + par.nPulse then .low else .high

/-- The pads `p` after edge `n` of a WRB of `d` to `a` that found the pads `p₀` (R143, R144). -/
abbrev WrbPads (par : Params) (a d : Byte) (p₀ : Pins) (n : Nat) (p : Pins) : Prop :=
  (∀ i, pinAt p (pinA i) = if 1 ≤ n then .output (Level.ofBit (a.getLsbD i)) else pinAt p₀ (pinA i)) ∧
    (∀ i, pinAt p (pinIO i) = if 2 ≤ n then .output (Level.ofBit (d.getLsbD i)) else pinAt p₀ (pinIO i)) ∧
    pinAt p pinWE = .output (wrbLevel par n) ∧ pinAt p pinOE = .output .high ∧ pinAt p pinCE = .output .low

theorem wrbLevel_before (h : n < 2 + (par.nSettle : Nat)) : wrbLevel par n = .high :=
  if_neg fun hn => by omega

theorem wrbLevel_pulse (h : 2 + (par.nSettle : Nat) ≤ n) (h' : n < 2 + (par.nSettle : Nat) + par.nPulse) :
    wrbLevel par n = .low :=
  if_pos ⟨h, h'⟩

theorem wrbLevel_after (h : 2 + (par.nSettle : Nat) + par.nPulse ≤ n) : wrbLevel par n = .high :=
  if_neg fun hn => by omega

/-- Acceptance moves no pin. -/
theorem WritePins.wrbPads_zero (h : WritePins p) : WrbPads par a d p 0 p := by
  obtain ⟨_, _, hWE, hOE, hCE⟩ := h
  exact ⟨fun _ => rfl, fun _ => rfl, by rw [hWE, wrbLevel_before (by omega)], hOE, hCE⟩

/-- W_ADDR moves the address lines. -/
theorem WritePins.wrbPads_one (h : WritePins p) : WrbPads par a d p 1 (drivePins maskAddr (onAddrLines a) p) := by
  obtain ⟨_, _, hWE, hOE, hCE⟩ := h
  have hlevel : wrbLevel par 1 = .high := wrbLevel_before (by omega)
  exact ⟨by simp, by simp, by simp [hWE, hlevel], by simp [hOE], by simp [hCE]⟩

/-- From W_DATA's edge on the operands are on the lines. -/
theorem WriteLines.wrbPads (h : WriteLines a d (wrbLevel par n) p) (hn : 2 ≤ n) : WrbPads par a d p₀ n p := by
  obtain ⟨hA, hD, hcontrols⟩ := h
  exact ⟨fun i => by rw [hA i, if_pos (by omega)], fun i => by rw [hD i, if_pos hn], hcontrols⟩

/-- The edges of a WRB with its operands on the lines, counted from W_DATA's: in W_SETTLE, W_PULSE or W_RECOVER, or at
the end. -/
theorem write_flights_at (f₁ : Flight (WriteLines a d .high) par.nSettle t₁ t₂)
    (f₂ : Flight (WriteLines a d .low) par.nPulse t₂ t₃) (f₃ : Flight (WriteLines a d .high) par.nRecover t₃ t)
    (hlines : WriteLines a d .high t.ebc.pincfg) (ht : t.ebc.seq = .ready) (hn : 2 + k ≤ wrbEnd par) :
    ∃ u, Flight (fun _ => True) k t₁ u ∧ WriteLines a d (wrbLevel par (2 + k)) u.ebc.pincfg ∧
      (u.ebc.seq = .ready ↔ 2 + k = wrbEnd par) := by
  simp only [wrbEnd] at hn ⊢
  by_cases hsettle : k < par.nSettle
  · obtain ⟨u, f, hu, hseq⟩ := f₁.during hsettle
    exact ⟨u, f.anyPads, by rwa [wrbLevel_before (by omega)], iff_of_false hseq (by omega)⟩
  obtain ⟨k, rfl⟩ := Nat.exists_eq_add_of_le (Nat.le_of_not_lt hsettle)
  by_cases hpulse : k < par.nPulse
  · obtain ⟨u, f, hu, hseq⟩ := f₂.during hpulse
    exact ⟨u, f₁.anyPads.trans f.anyPads, by rwa [wrbLevel_pulse (by omega) (by omega)],
      iff_of_false hseq (by omega)⟩
  obtain ⟨k, rfl⟩ := Nat.exists_eq_add_of_le (Nat.le_of_not_lt hpulse)
  have f₁₂ := f₁.anyPads.trans f₂.anyPads
  rw [wrbLevel_after (by omega), ← Nat.add_assoc (par.nSettle : Nat)]
  by_cases hrecover : k < par.nRecover
  · obtain ⟨u, f, hu, hseq⟩ := f₃.during hrecover
    exact ⟨u, f₁₂.trans f.anyPads, hu, iff_of_false hseq (by omega)⟩
  · obtain rfl : k = par.nRecover := by omega
    exact ⟨t, f₁₂.trans f₃.anyPads, hlines, iff_of_true ht (by omega)⟩

/-- A WRB in WRITE_ACTIVE after its edge `n`, the accepting edge being edge 0: its pads are those of R143, and it has
ended if `n` is its last edge. -/
theorem wrb_pads (hq : s.quiet) (hs : s.ebc.seq = .ready) (hf : s.ebc.fault = false) (hph : s.ebc.phase = .writeActive)
    (hp : WritePins s.ebc.pincfg) (hn : n ≤ wrbEnd s.par) :
    ∃ u, Flight (fun _ => True) n (s.advance (s.accepted (.wrb a d))) u ∧
      WrbPads s.par a d s.ebc.pincfg n u.ebc.pincfg ∧ (u.ebc.seq = .ready ↔ n = wrbEnd s.par) := by
  have hacc := accepted_wrb hf hph a d
  simp only [wrbEnd]
  rcases n with _ | _ | k
  · rw [hacc]
    exact ⟨_, .here _, hp.wrbPads_zero, iff_of_false nofun (by omega)⟩
  · obtain ⟨hA, _⟩ := id hp
    have hcalm : (s.advance { s.latched (.wrb a d) with addrR := a, wdataR := d, seq := .wAddr }).Calm :=
      calm_accepted hq
    rw [hacc]
    exact ⟨_, hcalm.flight_edge nofun trivial fun hx => microOp_wAddr hx rfl (addr_pins hA), hp.wrbPads_one,
      iff_of_false nofun (by omega)⟩
  · obtain ⟨t₁, t₂, t₃, t, _, f₁, f₂, f₃, f₄, hlines, ht⟩ := wrb_runs hq hs hf hph hp a d
    obtain ⟨u, f, hu, hseq⟩ := write_flights_at (k := k) f₂ f₃ f₄ hlines (by rw [ht]; rfl)
      ((Nat.add_comm 2 k).trans_le hn)
    rw [Nat.add_comm 2 k] at hu hseq
    exact ⟨u, Nat.add_comm 2 k ▸ f₁.anyPads.trans f, hu.wrbPads (by omega), hseq⟩

end

/-- Settles O43: the command's word is accepted on the first edge, and where the command ends its response is there. -/
theorem wrbPadTrace : Obligations.WrbPadTrace := by
  intro s a d n hq hs hf hph hp hv hw hn
  have hready := cmdReady_of_undisturbed (quiet_undisturbed hq) hs
  have hd : decode s.input.cmdWord = .ok (.wrb a d) := hw ▸ decodeInvertsEncode _ rfl
  have hedge : edge s = .next (s.advance (s.accepted (.wrb a d))) := by
    rw [edge_eq_acceptEdge hready hv hd, acceptEdge, State.atEdge_high (input_quiet hq).1]
    rfl
  have hnone : (s.accepted (.wrb a d)).AnsweredAtReady := acceptInstr_answeredAtReady rfl _
  obtain ⟨u, f, ⟨hA, hD, hWE, hOE, hCE⟩, hseq⟩ := wrb_pads (a := a) (d := d) hq hs hf hph hp hn
  have hresponse := f.answeredAtReady (undisturbed_advance (quiet_undisturbed hq) _) hnone
  exact ⟨u, (edges_succ_of_next hedge n).trans f.edges, hA, hD, hWE, hOE, hCE, hresponse.trans hseq⟩

end Sys2Proof.Machine
end

section
/-! Answers at acceptance (spec/60_exceptions.md R163, R164, R166, R167): where a check turns a command away or takes a
HardwareFault, the acceptance leaves READY, so the command is its accepting edge and that edge changes nothing else. -/

namespace Sys2Proof.Machine

/-! ## What the checks make of the registers that an edge finds -/

section
variable {s : State} {e : Ebc} {i : Instr}

/-- The fault check (R90) turns a command away while `FAULT = 1`, whatever its acceptance would do (R167). -/
theorem passChecks_rejected {w : Word} (go : Ebc → Ebc) (hf : e.fault = true) :
    ((e.openEdge false).latch w).passChecks true go = e.turnedAway w .rejected := by
  simp [Ebc.passChecks, hf, Ebc.respond, Ebc.latch, Ebc.openEdge, Ebc.turnedAway]

/-- A fault entry at acceptance, as a whole register file (R171). -/
theorem raiseFault_at_acceptance (w : Word) (cause : Status) (q : BitVec 5) :
    ((e.openEdge false).latch w).raiseFault cause q = e.failed w cause q := by
  simp [Ebc.raiseFault, Ebc.respond, Ebc.latch, Ebc.openEdge, Ebc.failed]

/-- A pin command that passes the first checks faults while a phase owns the bus (R164). -/
theorem passChecks_ownership {w : Word} (hf : e.fault = false) (hph : e.phase ≠ .idle) :
    ((e.openEdge false).latch w).passChecks true Ebc.toPinExec = e.failed w .hwfOwnership noPin := by
  rw [passChecks_ok (by simpa using hf), Ebc.toPinExec, if_neg (by simpa using hph), raiseFault_at_acceptance]

/-- A transfer that passes the first checks faults outside its phase `ph` (R163). -/
theorem passChecks_phase {w : Word} {ph : Phase} {start : Ebc → Ebc} (hf : e.fault = false) (hph : e.phase ≠ ph) :
    (((e.openEdge false).latch w).passChecks true fun e =>
      if e.phase = ph then start e else e.raiseFault .hwfPhase noPin) = e.failed w .hwfPhase noPin := by
  rw [passChecks_ok (by simpa using hf), if_neg (by simpa using hph), raiseFault_at_acceptance]

/-- While `FAULT = 1` only PREL is carried out (R167). -/
theorem acceptInstr_rejected (w : Word) (hf : e.fault = true) (hwf : i.wellFormed = true) (hne : i ≠ .prel) :
    acceptInstr i ((e.openEdge false).latch w) = e.turnedAway w .rejected := by
  cases i with
  | prel => exact absurd rfl hne
  | pset n | pget n =>
    have hn : pinIndexLegal n = true := hwf
    simpa only [acceptInstr, acceptPset, acceptPget, hn] using passChecks_rejected _ hf
  | pcfg | entw | entr | exit | wrb | rdb =>
    simp only [acceptInstr, acceptPcfg, acceptEntw, acceptEntr, acceptExit, acceptWrb, acceptRdb]
    exact passChecks_rejected _ hf

theorem accept_illegal {w : Word} (h : legal w = false) : accept w (e.openEdge false) = e.turnedAway w .illegal := by
  cases hd : decode w with
  | ok i => simp [legal, hd, Except.toBool] at h
  | error r => exact (accept_error hd).trans (passChecks_illegal id)

/-- A command whose acceptance makes `e` of the registers and leaves READY is over at its accepting edge. -/
theorem exec_answered (hr : s.cmdReady = true)
    (h : acceptInstr i ((s.atEdge.openEdge false).latch (encode i)) = e) (hs : e.seq = .ready) :
    exec i s = .next (s.advance e) := by
  subst h
  exact exec_at_acceptance hr hs

end

/-! ## The statements -/

/-- Settles O25: the ownership check is the last of the acceptance, and the checks before it pass. -/
theorem ownershipFaultAtAcceptance : Obligations.OwnershipFaultAtAcceptance := by
  intro s m md b n l hr hf hph hn
  refine ⟨exec_answered hr (passChecks_ownership hf hph) rfl, exec_answered hr ?pset rfl, exec_answered hr ?pget rfl⟩
  all_goals simpa only [acceptInstr, acceptPset, acceptPget, hn] using passChecks_ownership hf hph

/-- Settles O26: the phase check is the last of the acceptance, and the checks before it pass. -/
theorem phaseFaultAtAcceptance : Obligations.PhaseFaultAtAcceptance := by
  intro s a d hr hf
  refine ⟨fun hph => exec_answered hr ?wrb rfl, fun hph => exec_answered hr ?rdb rfl⟩
  case wrb =>
    rw [acceptInstr, acceptWrb]
    exact passChecks_phase hf hph
  case rdb =>
    rw [acceptInstr, acceptRdb]
    exact passChecks_phase hf hph

/-- Settles O27: the fault check stands before every command's own acceptance but PREL's. -/
theorem rejectedWhileFaulted : Obligations.RejectedWhileFaulted := fun _ _ hr hf hwf hne =>
  exec_answered hr (acceptInstr_rejected _ hf hwf hne) rfl

/-- Settles O28: an ILLEGAL word's step is one edge, its acceptance, whose first check looks at no register. -/
theorem illegalWordAnswered : Obligations.IllegalWordAnswered := by
  intro s hr hv hill
  rcases step_cases s with ⟨_, _, i, hd, _⟩ | ⟨_, hstep⟩
  · simp [legal, hd, Except.toBool] at hill
  · rw [hstep, edge_accepts hr hv, accept_illegal hill]

end Sys2Proof.Machine
end

section
/-! The abort (spec/60_exceptions.md R168, R174, R176): its entry, then T_CTL and T_REL whatever the level of `abort`,
then READY with nothing more to do while `abort` stays high. -/

namespace Sys2Proof.Machine

/-! ## Edges under an abort -/

section
variable {s : State}

/-- With `abort = 1` no command is accepted, so a step is one edge. -/
theorem step_under_abort (ha : s.input.abort = true) : step s = edge s := by
  rcases step_cases s with ⟨hr, _⟩ | ⟨_, hstep⟩
  · obtain ⟨_, hlow, _⟩ := (cmdReady_iff s).mp hr
    exact absurd (hlow.symm.trans ha) Bool.false_ne_true
  · exact hstep

/-- An abort that is not latched yet (R176). -/
theorem edge_abortEntry (hr : s.input.rstN = true) (ha : s.input.abort = true) (hl : s.atEdge.abortLatch = false) :
    edge s = .next (s.advance (s.atEdge.openEdge true).abortEntry) := by
  simp [edge_running hr, ebcEdge, ha, hl]

/-- In READY an abort that is latched shuts out the port (R174). -/
theorem edge_abortHeld (hr : s.input.rstN = true) (ha : s.input.abort = true) (hl : s.atEdge.abortLatch = true)
    (hs : s.atEdge.seq = .ready) : edge s = .next (s.advance (s.atEdge.openEdge true)) := by
  simp [edge_running hr, ebcEdge, ha, hl, hs]

end

/-- Settles O32: the entry is the first case of the edge, before the micro-state is looked at. -/
theorem abortEntersTeardown : Obligations.AbortEntersTeardown := fun _ hr ha hl =>
  (step_under_abort ha).trans (edge_abortEntry hr ha hl)

/-- Settles O34: the edge opens, and the latch stays as `abort` is. -/
theorem abortAnswersOnce : Obligations.AbortAnswersOnce := by
  intro s hr ha hl hs
  rw [step_under_abort ha, edge_abortHeld hr ha hl hs]
  simp [Ebc.openEdge]

/-! ## The three edges of an abort -/

section
variable {s t : State} {n : Nat}

theorem State.inputAt_zero (s : State) : s.inputAt 0 = s.input := by
  cases h : s.inputs <;> simp [State.inputAt, State.input, h]

theorem Took.input (h : Took n s t) : t.input = s.inputAt n := by
  obtain ⟨_, hinputs, _⟩ := h
  simp [State.input, State.inputAt, hinputs, List.headD_eq_head?_getD, List.getD_eq_getElem?_getD]

theorem Took.advance (h : Took n s t) (e : Ebc) : Took (n + 1) s (t.advance e) := by
  obtain ⟨hpar, hinputs, htick⟩ := h
  exact ⟨hpar, by simp [hinputs], by simp [htick, Nat.add_assoc]⟩

/-- The registers that an abort has found, after its entry and T_CTL, with `abort` at level `b` on T_CTL's edge. -/
def Ebc.abortDeasserted (e : Ebc) (b : Bool) : Ebc := ((e.openEdge true).abortEntry.openEdge b).teardownControls

/-- The entry latches the abort, so T_CTL follows whatever `abort` is on its edge. -/
theorem abort_reaches_tRel (hr₀ : (s.inputAt 0).rstN = true) (hr₁ : (s.inputAt 1).rst = .high)
    (ha : (s.inputAt 0).abort = true) (hl : s.atEdge.abortLatch = false) :
    ∃ u, edges 2 s = .next u ∧ Took 2 s u ∧ u.ebc = s.atEdge.abortDeasserted (s.inputAt 1).abort := by
  rw [State.inputAt_zero] at hr₀ ha
  have htook : Took 1 s (s.advance (s.atEdge.openEdge true).abortEntry) := Took.advance ⟨rfl, rfl, rfl⟩ _
  have htCtl := edge_micro_latched (s := s.advance (s.atEdge.openEdge true).abortEntry) (by rwa [htook.input])
    (fun _ => rfl) nofun (microOp_tCtl rfl)
  rw [htook.input, ← edges_one] at htCtl
  exact ⟨_, (edges_succ_of_next (edge_abortEntry hr₀ ha hl) 1).trans htCtl, htook.advance _, rfl⟩

theorem edges_three {u : State} (htwo : edges 2 s = .next u) (hu : edge u = .next t) : edges 3 s = .next t := by
  rw [edges_add htwo 1, edges_one, hu]

end

/-- Settles O33: T_REL follows T_CTL unless `abort` has fallen and risen again, which is a new abort's entry. -/
theorem abortReleasesInThreeEdges : Obligations.AbortReleasesInThreeEdges := by
  intro s hr₀ hr₁ hr₂ ha hl
  obtain ⟨u, htwo, htook, hu⟩ := abort_reaches_tRel hr₀ hr₁ ha hl
  rw [← htook.input] at hr₂ ⊢
  have hatRel : u.ebc.seq = .tRel := by rw [hu]; rfl
  have hlatched : u.ebc.abortLatch = (s.inputAt 1).abort := by rw [hu]; exact Bool.true_and _
  refine ⟨fun hheld => ?release, fun hfell hrose => ?anew⟩
  case release =>
    have hlatch : ((s.inputAt 1).abort && u.input.abort) = u.input.abort := by
      cases h : u.input.abort with
      | false => exact Bool.and_false _
      | true => rw [hheld h]; rfl
    have hedge : edge u = .next (u.advance (u.ebc.openEdge u.input.abort).teardownRelease) :=
      edge_micro_latched hr₂ (by rwa [hlatched]) (by simp [hatRel]) (microOp_tRel hatRel)
    refine ⟨_, edges_three htwo hedge, htook.advance _, ?_, releasedPins_pin⟩
    simp [hu, hlatch, Ebc.teardownRelease, Ebc.respond, Ebc.abortDeasserted, Ebc.teardownControls, Ebc.abortEntry,
      Ebc.openEdge]
  case anew =>
    have hfound := State.atEdge_high hr₂
    have hedge : edge u = .next (u.advance (u.ebc.openEdge true).abortEntry) :=
      hfound ▸ edge_abortEntry (rstN_of_high hr₂) hrose (by rw [hfound, hlatched, hfell])
    refine ⟨_, edges_three htwo hedge, htook.advance _, ?_, ?_⟩ <;> rw [State.advance_ebc, hu]
    · simp [Ebc.abortDeasserted, Ebc.teardownControls, Ebc.abortEntry, Ebc.openEdge]
    · exact controlsDeasserted_deassertControls _

end Sys2Proof.Machine
end

section
/-! Fault entries (spec/60_exceptions.md R171 to R174, 40_gpio.md R104): which fault the access of a micro-state takes and
which pin it names is said once, as `AccessFault`; every micro-state either takes such a fault or passes its checks. -/

namespace Sys2Proof.Machine

/-! ## The faults of an access -/

/-- Fault `f` of an access to the pins of `m`, which must have direction `fits`: the lowest pin with the wrong direction,
or the lowest pin under a port error (40_gpio.md R104). -/
def AccessFault (m : PinMask) (fits : Pin → Bool) (portErr : Bool) (f : PinFault) : Prop :=
  inMask m f.pin = true ∧
    ((f.cause = .hwfDirection ∧ fits f.pin = false ∧ ∀ j, j < f.pin → inMask m j = true → fits j = true) ∨
      (f.cause = .hwfPort ∧ portErr = true ∧ ∀ j, j < f.pin → inMask m j = false))

section
variable {m v : PinMask} {md : Mode} {b pe : Bool} {p q : Pins} {f : PinFault} {g fits : Pin → Bool}

theorem AccessFault.isHardwareFault (h : AccessFault m fits pe f) : f.cause.isHardwareFault = true := by
  obtain ⟨_, ⟨hc, _⟩ | ⟨hc, _⟩⟩ := h <;> rw [hc] <;> decide

/-- The direction check's own fault. -/
theorem AccessFault.of_directionFault {wanted : PinCfg → Bool} (h : directionFault m wanted p = some f) :
    AccessFault m (fun k => wanted (pinAt p k)) pe f := by
  obtain ⟨k, hk, rfl⟩ := Option.map_eq_some_iff.mp h
  obtain ⟨hfails, hlow⟩ := lowestWhere_some hk
  simp only [Bool.and_eq_true, Bool.not_eq_true'] at hfails
  obtain ⟨hm, hdir⟩ := hfails
  exact ⟨hm, .inl ⟨rfl, hdir, fun j hj hmj => by simpa [hmj] using hlow j hj⟩⟩

/-- The port check's own fault. -/
theorem AccessFault.of_portFault (h : portFault m pe = some f) : AccessFault m fits pe f := by
  cases pe with
  | false => cases h
  | true =>
    obtain ⟨k, hk, rfl⟩ := Option.map_eq_some_iff.mp h
    obtain ⟨hm, hlow⟩ := lowestWhere_some hk
    exact ⟨hm, .inr ⟨rfl, rfl, hlow⟩⟩

/-- Under a port error the port check passes the empty set only. -/
theorem empty_of_portFault_none (h : portFault m pe = none) (hpe : pe = true) (k : Pin) : inMask m k = false := by
  subst hpe
  exact lowestWhere_none.mp (Option.map_eq_none_iff.mp h) k

/-! ## The answers of the primitives -/

theorem cfgPins_error (h : cfgPins m md b pe p = .error f) : AccessFault m fits pe f := by
  unfold cfgPins at h
  split at h <;> cases h
  exact .of_portFault ‹_›

theorem cfgPins_passes (h : cfgPins m md b pe p = .ok q) : portFault m pe = none := by
  unfold cfgPins at h
  split at h
  · cases h
  · assumption

theorem setPins_error (h : setPins m v pe p = .error f) : AccessFault m (fun k => (pinAt p k).isOutput) pe f := by
  unfold setPins at h
  split at h
  · cases h
    exact .of_directionFault ‹_›
  · split at h <;> cases h
    exact .of_portFault ‹_›

theorem setPins_passes (h : setPins m v pe p = .ok q) : portFault m pe = none := by
  unfold setPins at h
  split at h
  · cases h
  · split at h
    · cases h
    · assumption

theorem getPins_error (h : getPins m pe g p = .error f) : AccessFault m (fun k => (pinAt p k).isInput) pe f := by
  unfold getPins at h
  split at h
  · cases h
    exact .of_directionFault ‹_›
  · split at h <;> cases h
    exact .of_portFault ‹_›

theorem getPins_passes {r : PinMask} (h : getPins m pe g p = .ok r) : portFault m pe = none := by
  unfold getPins at h
  split at h
  · cases h
  · split at h
    · cases h
    · assumption

end

/-! ## Every micro-state -/

/-- How the micro-state of `e` ends under `portErr`: its access takes a fault and nothing else happens, or its access
passes the port check and it raises no fault. -/
inductive AccessOutcome (portErr : Bool) (e : Ebc) : Ebc → Prop
  | faults (f : PinFault) (h : AccessFault e.accessed e.directionFits portErr f) :
    AccessOutcome portErr e (e.raiseFault f.cause (pinField f.pin))
  | passes {e' : Ebc} (hport : portFault e.accessed portErr = none) (hf : e'.fault = true → e.fault = true) :
    AccessOutcome portErr e e'

section
variable {x : EdgeCtx} {e e' : Ebc} {m v : PinMask}

theorem directionFits_output (hs : e.samples = false) : e.directionFits = fun k => (pinAt e.pincfg k).isOutput := by
  funext k
  simp [Ebc.directionFits, hs]

theorem directionFits_input (hs : e.samples = true) : e.directionFits = fun k => (pinAt e.pincfg k).isInput := by
  funext k
  simp [Ebc.directionFits, hs]

/-- A micro-state that accesses no pin. -/
theorem AccessOutcome.noAccess {pe : Bool} (hm : e.accessed = 0) (hf : e'.fault = true → e.fault = true) :
    AccessOutcome pe e e' :=
  .passes (portFault_eq_none (.inr fun k => by rw [hm]; exact inMask_zero k)) hf

/-- A primitive and what follows it. -/
theorem AccessOutcome.afterPins {α : Type} {r : Except PinFault α} {k : α → Ebc}
    (herr : ∀ f, r = .error f → AccessFault e.accessed e.directionFits x.portErr f)
    (hok : ∀ a, r = .ok a → portFault e.accessed x.portErr = none)
    (hk : ∀ a, (k a).fault = true → e.fault = true) : AccessOutcome x.portErr e (e.afterPins r k) := by
  cases r with
  | ok a => exact .passes (hok a rfl) (hk a)
  | error f => exact .faults f (herr f rfl)

theorem AccessOutcome.cfg {md : Mode} {b : Bool} {k : Pins → Ebc} (hm : e.accessed = m)
    (hk : ∀ q, (k q).fault = true → e.fault = true) :
    AccessOutcome x.portErr e (e.afterPins (cfgPins m md b x.portErr e.pincfg) k) := by
  subst hm
  exact .afterPins (fun _ => cfgPins_error) (fun _ => cfgPins_passes) hk

theorem AccessOutcome.set {k : Pins → Ebc} (hm : e.accessed = m ∧ e.samples = false)
    (hk : ∀ q, (k q).fault = true → e.fault = true) :
    AccessOutcome x.portErr e (e.afterPins (setPins m v x.portErr e.pincfg) k) := by
  obtain ⟨rfl, hs⟩ := hm
  exact .afterPins (fun _ h => directionFits_output hs ▸ setPins_error h) (fun _ => setPins_passes) hk

theorem AccessOutcome.get {k : PinMask → Ebc} (hm : e.accessed = m ∧ e.samples = true)
    (hk : ∀ r, (k r).fault = true → e.fault = true) :
    AccessOutcome x.portErr e (e.afterPins (getPins m x.portErr x.sample e.pincfg) k) := by
  obtain ⟨rfl, hs⟩ := hm
  exact .afterPins (fun _ h => directionFits_input hs ▸ getPins_error h) (fun _ => getPins_passes) hk

/-- A delay state accesses a pin at most where its count is 1 (42_bus_transfer.md R140). -/
theorem AccessOutcome.delay {pe : Bool} {par : Params} {act : Ebc → Ebc} (hm : e.cnt ≠ 1 → e.accessed = 0)
    (hact : e.cnt = 1 → AccessOutcome pe e (act e)) : AccessOutcome pe e (delayState par act e) := by
  unfold delayState
  split
  · exact hact ‹_›
  · exact .noAccess (hm ‹_›) id

theorem pExec_accessOutcome (hs : e.seq = .pExec) (h : pExec x e = some e') : AccessOutcome x.portErr e e' := by
  unfold pExec at h
  split at h
  case h_4 => cases h
  all_goals obtain rfl := Option.some.inj h
  case h_1 hd => exact .cfg (by simp [Ebc.accessed, hs, hd]) fun _ => id
  case h_2 hd => exact .set (by simp [Ebc.accessed, Ebc.samples, hs, hd]) fun _ => id
  case h_3 hd => exact .get (by simp [Ebc.accessed, Ebc.samples, hs, hd]) fun _ => id

theorem xCe_accessOutcome (hs : e.seq = .xCe) (h : xCe x e = some e') : AccessOutcome x.portErr e e' := by
  have hm : e.accessed = maskPin pinCE ∧ e.samples = false := by simp [Ebc.accessed, Ebc.samples, hs]
  unfold xCe at h
  split at h
  case h_1 q hq =>
    refine .passes (hm.1 ▸ setPins_passes hq) ?_
    rcases xCeNext_cases h with rfl | ⟨_, rfl⟩ <;> exact id
  case h_2 f hf =>
    obtain rfl := Option.some.inj h
    exact .faults f (by rw [hm.1, directionFits_output hm.2]; exact setPins_error hf)

/-- Every micro-state takes the fault of its access, or passes its checks and raises none. -/
theorem microOp_accessOutcome (hne : e.seq ≠ .ready) (h : microOp x e = some e') : AccessOutcome x.portErr e e' := by
  cases hs : e.seq <;> simp only [microOp, hs, Option.some.injEq] at h
  case ready => exact absurd hs hne
  case pExec => exact pExec_accessOutcome hs h
  case xCe => exact xCe_accessOutcome hs h
  all_goals subst h
  case xOe | wAddr | wData | rAddr => exact .set (by simp [Ebc.accessed, Ebc.samples, hs]) fun _ => id
  case ewCtl | ewAddr | ewData | ewCe | erData | erCtl | erAddr | erCe | erOe =>
    exact .cfg (by simp [Ebc.accessed, hs]) fun _ => id
  case wSettle | wPulse =>
    exact .delay (fun h1 => by simp [Ebc.accessed, hs, h1]) fun h1 =>
      .set (by simp [Ebc.accessed, Ebc.samples, hs, h1]) fun _ => id
  case wRecover | rAccess =>
    exact .delay (fun _ => by simp [Ebc.accessed, hs]) fun _ => .noAccess (by simp [Ebc.accessed, hs]) id
  case rSample => exact .get (by simp [Ebc.accessed, Ebc.samples, hs]) fun _ => id
  case tCtl => exact .noAccess (by simp [Ebc.accessed, hs]) id
  case tRel => exact .noAccess (by simp [Ebc.accessed, hs]) nofun

end

/-- PSET and PGET access the pin that they name. -/
theorem directionFits_of_onePin {e : Ebc} (h : e.ExecutesOnePin)
    (hdir : ∀ n l, (decode e.cmd = .ok (.pset n l) → (pinAt e.pincfg (pinOfIndex n)).isOutput = true) ∧
      (decode e.cmd = .ok (.pget n) → (pinAt e.pincfg (pinOfIndex n)).isInput = true))
    {k : Pin} (hk : inMask e.accessed k = true) : e.directionFits k = true := by
  obtain ⟨hs, n, ⟨l, hd⟩ | hd⟩ := h
  · obtain rfl : k = pinOfIndex n := by simpa [Ebc.accessed, hs, hd] using hk
    simpa [Ebc.directionFits, Ebc.samples, hs, hd] using (hdir n l).1 hd
  · obtain rfl : k = pinOfIndex n := by simpa [Ebc.accessed, hs, hd] using hk
    simpa [Ebc.directionFits, Ebc.samples, hs, hd] using (hdir n .low).2 hd

/-! ## Every acceptance -/

/-- An acceptance leaves `FAULT` as it is, or takes a fault that names no pin (R163, R164). -/
def Ebc.FaultsUnpinned (e e' : Ebc) : Prop :=
  e'.fault = e.fault ∨ ∃ cause, (cause = .hwfOwnership ∨ cause = .hwfPhase) ∧ e' = e.raiseFault cause noPin

section
variable {e : Ebc} {go : Ebc → Ebc}

theorem Ebc.FaultsUnpinned.passChecks {isLegal : Bool} (h : e.FaultsUnpinned (go e)) :
    e.FaultsUnpinned (e.passChecks isLegal go) := by
  rcases e.passChecks_cases isLegal go with ⟨_, hc⟩ | ⟨_, _, hc⟩ | ⟨_, _, hc⟩ <;> rw [hc]
  · exact .inl rfl
  · exact .inl rfl
  · exact h

theorem Ebc.FaultsUnpinned.toPinExec : e.FaultsUnpinned e.toPinExec := by
  rcases e.toPinExec_cases with ⟨_, hc⟩ | ⟨_, hc⟩ <;> rw [hc]
  · exact .inl rfl
  · exact .inr ⟨_, .inl rfl, rfl⟩

theorem Ebc.FaultsUnpinned.toPhaseChange (h : (go e).fault = e.fault) : e.FaultsUnpinned (e.toPhaseChange go) := by
  rcases e.toPhaseChange_cases go with ⟨_, hc⟩ | ⟨_, hc⟩ <;> rw [hc]
  · exact .inl h
  · exact .inl rfl

/-- The phase check of a transfer. -/
theorem Ebc.FaultsUnpinned.inPhase {ph : Phase} (h : (go e).fault = e.fault) :
    e.FaultsUnpinned (if e.phase = ph then go e else e.raiseFault .hwfPhase noPin) := by
  split
  · exact .inl h
  · exact .inr ⟨_, .inr rfl, rfl⟩

theorem acceptInstr_faultsUnpinned (i : Instr) : e.FaultsUnpinned (acceptInstr i e) := by
  cases i <;> simp only [acceptInstr, acceptPcfg, acceptPset, acceptPget, acceptEntw, acceptEntr, acceptExit, acceptWrb,
    acceptRdb]
  case pcfg | pset | pget => exact .passChecks .toPinExec
  case prel => exact .inl rfl
  case entw | entr | exit => exact .passChecks (.toPhaseChange rfl)
  case wrb a d => exact .passChecks (.inPhase (go := fun e => { e with addrR := a, wdataR := d, seq := .wAddr }) rfl)
  case rdb a => exact .passChecks (.inPhase (go := fun e => { e with addrR := a, seq := .rAddr }) rfl)

theorem accept_faultsUnpinned (w : Word) : (e.latch w).FaultsUnpinned (accept w e) := by
  cases hd : decode w with
  | ok i =>
    rw [accept_ok hd]
    exact acceptInstr_faultsUnpinned i
  | error r =>
    rw [accept_error hd]
    exact .inl rfl

/-- While `FAULT = 1` an acceptance answers, or starts a PREL (R166, R167). -/
theorem accept_faulted (hf : e.fault = true) (w : Word) :
    (∃ st, accept w (e.openEdge false) = e.turnedAway w st) ∨
      accept w (e.openEdge false) = { (e.openEdge false).latch w with seq := .tCtl } := by
  cases hd : decode w with
  | ok i =>
    obtain ⟨_, hwf⟩ := encodeInvertsDecode w i hd
    rw [accept_ok hd]
    by_cases hi : i = .prel
    · subst hi
      exact .inr rfl
    · exact .inl ⟨_, acceptInstr_rejected w hf hwf hi⟩
  | error r => exact .inl ⟨_, accept_illegal (legal_of_error hd)⟩

end

/-! ## Every edge -/

/-- An edge that sets `FAULT` is the acceptance of a command that fails its last check, or a micro-state whose access
fails. -/
theorem ebcEdge_faultEntry {x : EdgeCtx} {inp : EdgeIn} {e e' : Ebc} (h : ebcEdge x inp e = some e')
    (h0 : e.fault = false) (h1 : e'.fault = true) :
    (e.seq = .ready ∧ ∃ w cause, (cause = .hwfOwnership ∨ cause = .hwfPhase) ∧
        e' = ((e.openEdge false).latch w).raiseFault cause noPin) ∨
      (e.seq ≠ .ready ∧ ∃ b f, AccessFault e.accessed e.directionFits x.portErr f ∧
        e' = (e.openEdge b).raiseFault f.cause (pinField f.pin)) := by
  have hset : e'.fault ≠ e.fault := by simp [h0, h1]
  rcases ebcEdge_some h with ⟨_, _, rfl⟩ | ⟨hs, _, _, rfl⟩ | ⟨_, _, _, rfl⟩ | ⟨hs, _, hm⟩
  · exact absurd rfl hset
  · rcases accept_faultsUnpinned (e := e.openEdge false) inp.cmdWord with hkeep | ⟨cause, hcause, hacc⟩
    · exact absurd hkeep hset
    · exact .inl ⟨hs, _, cause, hcause, hacc⟩
  · exact absurd rfl hset
  · cases microOp_accessOutcome (e := e.openEdge inp.abort) hs hm with
    | passes _ hkeep => exact absurd (h0.symm.trans (hkeep h1)) Bool.false_ne_true
    | faults f hfault => exact .inr ⟨hs, _, f, hfault, rfl⟩

/-! ## The statements -/

/-- Settles O24: the micro-state does not pass the port check, and its direction checks pass: by the invariant, but for
PSET and PGET, whose pin the statement gives. -/
theorem portErrorStopsTheAccess : Obligations.PortErrorStopsTheAccess := by
  intro s k hinv hr ha hpe hk hdir
  obtain ⟨hin, _⟩ := lowestWhere_some hk
  have hne : s.ebc.seq ≠ .ready := fun hs => by simp [Ebc.accessed, hs] at hin
  obtain ⟨e', hm⟩ : ∃ e', microOp s.ctx (s.ebc.openEdge false) = some e' := microOp_answers hinv.ebc.command
  have hedge : edge s = .next (s.advance e') := by rw [edge_micro hr ha hne, hm]
  rw [hedge]
  cases microOp_accessOutcome (e := s.ebc.openEdge false) hne hm with
  | passes hport _ => exact absurd ((empty_of_portFault_none hport hpe k).symm.trans hin) Bool.false_ne_true
  | faults f hfault =>
    obtain ⟨hmem, ⟨hcause, hwrong, _⟩ | ⟨hcause, _, hlow⟩⟩ := hfault
    · have hone : s.ebc.ExecutesOnePin := sequencesKeepDirection s _ hinv hedge rfl hcause
      obtain ⟨hs, _⟩ := id hone
      exact absurd (hwrong.symm.trans (directionFits_of_onePin hone (hdir hs) hmem)) Bool.false_ne_true
    · obtain rfl : f.pin = k := Option.some.inj ((lowestWhere_eq_some hmem hlow).symm.trans hk)
      have hentry : (s.ebc.openEdge false).raiseFault .hwfPort (pinField f.pin) =
          s.ebc.failed s.ebc.cmd .hwfPort (pinField f.pin) := raiseFault_at_acceptance s.ebc.cmd _ _
      rw [hcause, hentry]

/-- Settles O35: either way the fault entry is `Ebc.raiseFault` of registers that only the opening of the edge and the
latched word have touched. -/
theorem faultEntryIsPrecise : Obligations.FaultEntryIsPrecise := by
  intro s t he h0 h1
  rcases edge_next he with ⟨_, rfl⟩ | ⟨_, e', hebc, rfl⟩
  · exact absurd h1 Bool.false_ne_true
  generalize s.atEdge = e at h0 hebc ⊢
  rcases ebcEdge_faultEntry hebc h0 h1 with ⟨hs, w, cause, hcause, rfl⟩ | ⟨hs, b, f, hfault, rfl⟩
  · have hhwf : cause.isHardwareFault = true := by rcases hcause with rfl | rfl <;> decide
    exact ⟨hhwf, rfl, fun _ => ⟨hcause, rfl⟩, fun hne => absurd hs hne,
      rfl, rfl, rfl, rfl, rfl, rfl, rfl, rfl, rfl, rfl⟩
  · obtain ⟨hmem, hkind⟩ := id hfault
    exact ⟨hfault.isHardwareFault, rfl, fun hready => absurd hready hs, fun _ => ⟨f.pin, hmem, rfl, hkind⟩,
      rfl, rfl, rfl, rfl, rfl, rfl, rfl, rfl, rfl, rfl⟩

/-- Settles O36: beside a fault the invariant leaves READY, T_CTL and T_REL; READY answers or starts a PREL. -/
theorem faultHeldUntilTeardown : Obligations.FaultHeldUntilTeardown := by
  intro s t hinv hf he
  rcases s.atEdge_cases with ⟨hr, hfound⟩ | ⟨hr, _⟩
  swap
  · exact .inl hr
  refine .inr ?_
  rcases edge_next he with ⟨hlow, _⟩ | ⟨_, e', hebc, rfl⟩
  · exact absurd (hlow.symm.trans (rstN_of_high hr)) Bool.false_ne_true
  rw [hfound] at hebc
  rcases ebcEdge_some hebc with ⟨_, _, rfl⟩ | ⟨_, _, _, rfl⟩ | ⟨_, _, _, rfl⟩ | ⟨hne, _, hm⟩
  · exact .inr ⟨hf, rfl, rfl, rfl, rfl, .inr rfl⟩
  · rcases accept_faulted hf s.input.cmdWord with ⟨st, hacc⟩ | hacc <;> rw [hacc] <;>
      exact .inr ⟨hf, rfl, rfl, rfl, rfl, .inr rfl⟩
  · exact .inr ⟨hf, rfl, rfl, rfl, rfl, .inr rfl⟩
  · obtain ⟨_, hs | hs | hs⟩ := hinv.ebc.faultHeld hf
    · exact absurd hs hne
    · obtain rfl := Option.some.inj ((microOp_tCtl (e := s.ebc.openEdge s.input.abort) hs).symm.trans hm)
      exact .inr ⟨hf, rfl, rfl, rfl, rfl, .inl hs⟩
    · exact .inl hs

end Sys2Proof.Machine
end

section
/-! Every accepted command ends (spec/70_reset_and_hazards.md R205). A bound on the edges that a command in flight still
needs goes down on every edge, but for the entry of an abort, which sets it to the two edges of a teardown and uses up an
input; a fall of `rst_n` ends the command. -/

namespace Sys2Proof.Machine

/-! ## The edges that a command still needs -/

/-- The command in flight ends within `n` edges that bring no reset and no abort: the sums of the rows of 42_bus_transfer.md
R143 and of 41_bus_phase.md R121 to R124 from the micro-state on. At P_EXEC, X_OE and X_CE `CMD` holds a command that goes
on from there, and a delay state has not counted out. -/
def Ebc.EndsWithin (p : Params) (n : Nat) (e : Ebc) : Prop :=
  match e.seq with
  | .ready => True
  | .pExec => 1 ≤ n ∧ ∃ i, decode e.cmd = .ok i ∧ isPinCommand i = true
  | .xOe => 7 ≤ n ∧ (e.cmd = encode .entw ∨ e.cmd = encode .entr ∨ e.cmd = encode .exit)
  | .xCe => 6 ≤ n ∧ (e.cmd = encode .entw ∨ e.cmd = encode .entr ∨ e.cmd = encode .exit)
  | .erData => 5 ≤ n
  | .ewCtl | .erCtl => 4 ≤ n
  | .ewAddr | .erAddr => 3 ≤ n
  | .ewData | .erCe | .tCtl => 2 ≤ n
  | .ewCe | .erOe | .rSample | .tRel => 1 ≤ n
  | .wAddr => 2 + (p.nSettle : Nat) + p.nPulse + p.nRecover ≤ n
  | .wData => 1 + (p.nSettle : Nat) + p.nPulse + p.nRecover ≤ n
  | .wSettle => 1 ≤ e.cnt ∧ e.cnt + p.nPulse + p.nRecover ≤ n
  | .wPulse => 1 ≤ e.cnt ∧ e.cnt + p.nRecover ≤ n
  | .wRecover => 1 ≤ e.cnt ∧ e.cnt ≤ n
  | .rAddr => 2 + (p.nAccess : Nat) ≤ n
  | .rAccess => 1 ≤ e.cnt ∧ e.cnt + 1 ≤ n

section
variable {p : Params} {m n : Nat} {e e' : Ebc} {x : EdgeCtx} {i : Instr}

theorem Ebc.EndsWithin.of_ready (h : e.seq = .ready) : e.EndsWithin p n := by
  simp [Ebc.EndsWithin, h]

theorem Ebc.EndsWithin.mono (h : e.EndsWithin p m) (hmn : m ≤ n) : e.EndsWithin p n := by
  cases hs : e.seq <;> simp only [Ebc.EndsWithin, hs] at h ⊢
  case pExec | xOe | xCe => exact h.imp_left hmn.trans'
  all_goals omega

/-- Every command in flight needs an edge. -/
theorem Ebc.EndsWithin.ready_of_zero (h : e.EndsWithin p 0) : e.seq = .ready := by
  cases hs : e.seq <;> simp only [Ebc.EndsWithin, hs] at h
  case ready => rfl
  all_goals omega

/-- The bound is about registers that the opening of an edge does not write. -/
theorem Ebc.endsWithin_openEdge (b : Bool) : (e.openEdge b).EndsWithin p n ↔ e.EndsWithin p n := Iff.rfl

/-! ## Every micro-state takes one edge off the bound -/

/-- A primitive's fault ends the command, so only its success matters. -/
theorem Ebc.EndsWithin.afterPins {α : Type} {r : Except PinFault α} {k : α → Ebc} (hk : ∀ a, (k a).EndsWithin p n) :
    (e.afterPins r k).EndsWithin p n := by
  cases r with
  | ok a => exact hk a
  | error f => exact .of_ready rfl

/-- A delay state acts where the count is 1, and counts down elsewhere. -/
theorem Ebc.EndsWithin.delay {act : Ebc → Ebc} (hcnt : 1 ≤ e.cnt) (hact : e.cnt = 1 → (act e).EndsWithin p n)
    (hmore : 1 < e.cnt → { e with cnt := e.cnt - 1 }.EndsWithin p n) : (delayState p act e).EndsWithin p n := by
  rcases hcnt.eq_or_lt' with hone | hlt
  · rw [delayState_one hone]
    exact hact hone
  · rw [delayState_more hlt]
    exact hmore hlt

/-- P_EXEC ends its command. -/
theorem pExec_endsWithin (hd : decode e.cmd = .ok i) (hi : isPinCommand i = true) :
    ∃ e', pExec x e = some e' ∧ e'.EndsWithin p n := by
  cases i with
  | pcfg m md b => exact ⟨_, pExec_pcfg hd, .afterPins fun _ => .of_ready rfl⟩
  | pset k l => exact ⟨_, pExec_pset hd, .afterPins fun _ => .of_ready rfl⟩
  | pget k => exact ⟨_, pExec_pget hd, .afterPins fun _ => .of_ready rfl⟩
  | prel | entw | entr | exit | wrb | rdb => cases hi

/-- X_CE ends EXIT and starts the entry sequence of ENTW or ENTR, unless CE̅ raises a HardwareFault. -/
theorem xCe_endsWithin (hn : 5 ≤ n) (hcmd : e.cmd = encode .entw ∨ e.cmd = encode .entr ∨ e.cmd = encode .exit) :
    ∃ e', xCe x e = some e' ∧ e'.EndsWithin p n := by
  unfold xCe
  split
  · rcases hcmd with h | h | h
    · exact ⟨_, xCeNext_entw h, (by omega : 4 ≤ n)⟩
    · exact ⟨_, xCeNext_entr h, hn⟩
    · exact ⟨_, xCeNext_exit h, .of_ready rfl⟩
  · exact ⟨_, rfl, .of_ready rfl⟩

theorem microOp_endsWithin (h : e.EndsWithin x.par (n + 1)) (hne : e.seq ≠ .ready) :
    ∃ e', microOp x e = some e' ∧ e'.EndsWithin x.par n := by
  cases hs : e.seq <;> simp only [Ebc.EndsWithin, hs] at h <;> simp only [microOp, hs]
  case ready => exact absurd hs hne
  case pExec =>
    obtain ⟨_, i, hd, hi⟩ := h
    exact pExec_endsWithin hd hi
  case xCe =>
    obtain ⟨hn, hcmd⟩ := h
    exact xCe_endsWithin (by omega) hcmd
  all_goals refine ⟨_, rfl, ?_⟩
  case xOe =>
    obtain ⟨hn, hcmd⟩ := h
    exact .afterPins fun _ => ⟨by omega, hcmd⟩
  case ewCtl | ewAddr | ewData | erData | erCtl | erAddr | erCe => exact .afterPins fun _ => Nat.le_of_succ_le_succ h
  case ewCe | erOe | rSample => exact .afterPins fun _ => .of_ready rfl
  case wAddr => exact .afterPins fun _ => (by omega : 1 + (x.par.nSettle : Nat) + x.par.nPulse + x.par.nRecover ≤ n)
  case wData => exact .afterPins fun _ => ⟨x.par.nSettle.pos, by simp only; omega⟩
  case wSettle =>
    obtain ⟨hcnt, hn⟩ := h
    exact .delay hcnt (fun _ => .afterPins fun _ => ⟨x.par.nPulse.pos, by simp only; omega⟩) fun _ => by
      simp only [Ebc.EndsWithin, hs]
      omega
  case wPulse =>
    obtain ⟨hcnt, hn⟩ := h
    exact .delay hcnt (fun _ => .afterPins fun _ => ⟨x.par.nRecover.pos, by simp only; omega⟩) fun _ => by
      simp only [Ebc.EndsWithin, hs]
      omega
  case wRecover =>
    obtain ⟨hcnt, hn⟩ := h
    exact .delay hcnt (fun _ => .of_ready rfl) fun _ => by
      simp only [Ebc.EndsWithin, hs]
      omega
  case rAddr => exact .afterPins fun _ => ⟨x.par.nAccess.pos, by simp only; omega⟩
  case rAccess =>
    obtain ⟨hcnt, hn⟩ := h
    exact .delay hcnt (fun _ => (by omega : 1 ≤ n)) fun _ => by
      simp only [Ebc.EndsWithin, hs]
      omega
  case tCtl => exact Nat.le_of_succ_le_succ h
  case tRel => exact .of_ready rfl

/-! ## Acceptance -/

/-- The edges that R205 allows a command after its accepting edge: the longest phase command, WRB, RDB. -/
def commandEdges (p : Params) : Nat :=
  max 7 (max (2 + (p.nSettle : Nat) + p.nPulse + p.nRecover) (2 + (p.nAccess : Nat)))

theorem commandEdges_ge : 7 ≤ commandEdges p ∧ 2 + (p.nSettle : Nat) + p.nPulse + p.nRecover ≤ commandEdges p ∧
    2 + (p.nAccess : Nat) ≤ commandEdges p := by
  unfold commandEdges
  omega

theorem Ebc.EndsWithin.passChecks {isLegal : Bool} {go : Ebc → Ebc} (h : isLegal = true → (go e).EndsWithin p n) :
    (e.passChecks isLegal go).EndsWithin p n := by
  rcases Ebc.passChecks_cases (e := e) isLegal go with ⟨_, hc⟩ | ⟨_, _, hc⟩ | ⟨hlegal, _, hc⟩ <;> rw [hc]
  · exact .of_ready rfl
  · exact .of_ready rfl
  · exact h hlegal

theorem Ebc.EndsWithin.toPinExec (hn : 1 ≤ n) (hd : decode e.cmd = .ok i) (hi : isPinCommand i = true) :
    e.toPinExec.EndsWithin p n := by
  rcases Ebc.toPinExec_cases (e := e) with ⟨_, hc⟩ | ⟨_, hc⟩ <;> rw [hc]
  · exact ⟨hn, i, hd, hi⟩
  · exact .of_ready rfl

theorem Ebc.EndsWithin.toPhaseChange {fromIdle : Ebc → Ebc} (hn : 7 ≤ n)
    (hcmd : e.cmd = encode .entw ∨ e.cmd = encode .entr ∨ e.cmd = encode .exit)
    (h : (fromIdle e).EndsWithin p n) : (e.toPhaseChange fromIdle).EndsWithin p n := by
  rcases Ebc.toPhaseChange_cases (e := e) fromIdle with ⟨_, hc⟩ | ⟨_, hc⟩ <;> rw [hc]
  · exact h
  · exact ⟨hn, hcmd⟩

/-- Whatever `FAULT`, `PHASE` and the operands are, the acceptance of a command leaves it within the bound of R205. -/
theorem acceptInstr_endsWithin (hcmd : e.cmd = encode i) : (acceptInstr i e).EndsWithin p (commandEdges p) := by
  obtain ⟨hphase, hwrb, hrdb⟩ := commandEdges_ge (p := p)
  have hdecode (hwf : i.wellFormed = true) : decode e.cmd = .ok i := hcmd ▸ decodeInvertsEncode i hwf
  cases i with
  | pcfg | pset | pget => exact .passChecks fun hlegal => .toPinExec (by omega) (hdecode hlegal) rfl
  | prel => exact (by omega : 2 ≤ commandEdges p)
  | entw => exact .passChecks fun _ => .toPhaseChange hphase (.inl hcmd) (by omega : 4 ≤ commandEdges p)
  | entr => exact .passChecks fun _ => .toPhaseChange hphase (.inr (.inl hcmd)) (by omega : 5 ≤ commandEdges p)
  | exit => exact .passChecks fun _ => .toPhaseChange hphase (.inr (.inr hcmd)) (.of_ready rfl)
  | wrb a d =>
    refine .passChecks fun _ => ?_
    split
    · exact hwrb
    · exact .of_ready rfl
  | rdb a =>
    refine .passChecks fun _ => ?_
    split
    · exact hrdb
    · exact .of_ready rfl

end

/-! ## Edges -/

section
variable {s : State} {n : Nat}

/-- An edge that finds a command in flight takes one edge off the bound, or is the entry of an abort. -/
theorem edge_endsWithin (h : s.ebc.EndsWithin s.par (n + 1)) (hs : s.atEdge.seq ≠ .ready) :
    ∃ e, edge s = .next (s.advance e) ∧ (e.EndsWithin s.par n ∨ (s.input.abort = true ∧ e.EndsWithin s.par 2)) := by
  have hr : s.input.rst = .high := by
    by_contra hfell
    exact hs (by rw [State.atEdge_fallen hfell]; rfl)
  rw [State.atEdge_high hr] at hs
  by_cases hentry : s.input.abort = true ∧ s.ebc.abortLatch = false
  · obtain ⟨ha, hl⟩ := hentry
    have hedge := edge_abortEntry (rstN_of_high hr) ha (by rwa [State.atEdge_high hr])
    exact ⟨_, hedge, .inr ⟨ha, le_refl 2⟩⟩
  · obtain ⟨e, hm, he⟩ := microOp_endsWithin (x := s.ctx) ((Ebc.endsWithin_openEdge s.input.abort).mpr h) hs
    have hlatched : s.input.abort = true → s.ebc.abortLatch = true := fun ha => by simpa [ha] using hentry
    exact ⟨e, edge_micro_latched hr hlatched hs hm, .inl he⟩

/-- With no reset and no abort to come the command reaches READY within the bound. -/
theorem flight_to_ready (hu : s.undisturbed) (h : s.ebc.EndsWithin s.par n) :
    ∃ m t, m ≤ n ∧ Flight (fun _ => True) m s t ∧ t.ebc.seq = .ready := by
  induction n generalizing s with
  | zero => exact ⟨0, s, le_refl 0, .here s, h.ready_of_zero⟩
  | succ n ih =>
    by_cases hs : s.ebc.seq = .ready
    · exact ⟨0, s, Nat.zero_le _, .here s, hs⟩
    · obtain ⟨hr, ha⟩ := input_undisturbed hu
      rw [← State.atEdge_high hr] at hs
      obtain ⟨e, hedge, he | ⟨hrose, _⟩⟩ := edge_endsWithin h hs
      · obtain ⟨m, t, hm, f, ht⟩ := ih (undisturbed_advance hu e) he
        exact ⟨m + 1, t, Nat.succ_le_succ hm, .step hs trivial hedge f, ht⟩
      · exact absurd (ha.symm.trans hrose) Bool.false_ne_true

/-- Under any inputs the command has ended one edge for each input to come and the bound later: while inputs are left an
abort entered costs no more than a teardown, and after the last of them nothing disturbs the command. -/
theorem runToReady_ends (hn : 2 ≤ n) (h : s.ebc.EndsWithin s.par n) :
    ∃ t, runToReady (s.inputs.length + n) s = .next t ∧ t.atEdge.seq = .ready ∧ t.par = s.par := by
  induction hlen : s.inputs.length generalizing s with
  | zero =>
    have hu : s.undisturbed := by simp [State.undisturbed, List.length_eq_zero_iff.mp hlen]
    obtain ⟨m, t, hm, f, ht⟩ := flight_to_ready hu h
    exact ⟨t, f.runToReady ht (by omega), State.atEdge_ready ht, f.took.1⟩
  | succ k ih =>
    by_cases hs : s.atEdge.seq = .ready
    · exact ⟨s, runToReady_ready hs _, hs, rfl⟩
    · obtain ⟨e, hedge, he⟩ := edge_endsWithin (h.mono (Nat.le_succ n)) hs
      have he' : e.EndsWithin s.par n := he.elim id fun hentry => hentry.2.mono hn
      rw [Nat.add_right_comm, runToReady_succ hs hedge]
      exact ih (s := s.advance e) he' (by simp [hlen])

end

/-- Settles O14: its acceptance leaves a command within the bound of R205, whatever the registers were; undisturbed it flies
to READY within that bound, and else it has ended within `State.edgeBound`, which has room for every input to come. -/
theorem everyCommandEnds : Obligations.EveryCommandEnds := by
  intro i s hready
  rw [exec_ready hready i]
  set s₁ := acceptEdge (encode i) (acceptInstr i) s
  have hends : s₁.ebc.EndsWithin s₁.par (commandEdges s.par) := acceptInstr_endsWithin rfl
  have hbound : s₁.edgeBound = s₁.inputs.length +
      ((s.par.nSettle : Nat) + s.par.nPulse + s.par.nRecover + s.par.nAccess + 8) := rfl
  have hbound' : commandEdges s.par ≤ (s.par.nSettle : Nat) + s.par.nPulse + s.par.nRecover + s.par.nAccess + 8 := by
    unfold commandEdges
    omega
  by_cases hu : s.undisturbed
  · obtain ⟨m, t, hm, f, ht⟩ := flight_to_ready (s := s₁) (undisturbed_advance hu _) hends
    obtain ⟨hpar, _, htick⟩ := f.took
    refine ⟨t, f.runToReady ht (by omega), State.atEdge_ready ht, hpar, fun _ => ⟨ht, ?_⟩⟩
    calc t.tick = s.tick + 1 + m := htick
      _ ≤ s.tick + 1 + commandEdges s.par := Nat.add_le_add_left hm _
  · obtain ⟨t, ht, hfound, hpar⟩ := runToReady_ends (s := s₁) (by omega) (hends.mono hbound')
    exact ⟨t, ht, hfound, hpar, fun hu' => absurd hu' hu⟩

end Sys2Proof.Machine
end

section
/-! Reset (spec/70_reset_and_hazards.md R190 to R195): the reset values and the outputs they show, what a fall of `rst_n`
erases, and the first edge after it. The device sees of the registers the pads alone, so beside equal pads its step is
one. -/

namespace Sys2Proof.Machine

/-! ## The reset values (R192) -/

@[simp] theorem reset_pin (k : Pin) : pinAt Ebc.reset.pincfg k = .unclaimed := releasedPins_pin k

theorem statusWord_reset : statusWord Ebc.reset = 0 := by decide

theorem pincfgWord_reset : pincfgWord Ebc.reset.pincfg = 0 := by decide

/-- A pad output that an Unclaimed pin has at 0 is 0 on every pad. -/
theorem padBus_reset {out : PinCfg → Bool} (h : out .unclaimed = false) : padBus out Ebc.reset.pincfg = 0 := by
  simp only [padBus, reset_pin, h]
  decide

/-- Settles O9: the registers are `Ebc.reset`, which the inputs do not enter. -/
theorem resetValues : Obligations.ResetValues := by
  refine ⟨reset_pin, rfl, rfl, rfl, rfl, rfl, rfl, rfl, rfl, rfl, rfl, rfl, rfl, rfl, rfl, rfl, rfl, pincfgWord_reset,
    statusWord_reset, fun is => ?_, fun k => ?_⟩
  · have hs : ({ State.reset with inputs := is } : State).atEdge.seq = .ready := State.atEdge_ready rfl
    simp [State.cmdReady, hs]
  · have hk : State.reset.pin k = .unclaimed := reset_pin k
    rw [hk]
    exact ⟨rfl, rfl, rfl, rfl⟩

/-- Settles O54: the device starts with no cell listed, no pulse and no write cycle. -/
theorem invariantAtReset : Obligations.InvariantAtReset where
  ebc := Ebc.inv_reset
  dev := ⟨⟨.nil, nofun⟩, nofun, nofun, State.reset.par.dWc.pos⟩

/-! ## The fall of `rst_n` (R190) -/

theorem EdgeIn.rstN_eq_false_iff (i : EdgeIn) : i.rstN = false ↔ i.rst = .low := by
  cases h : i.rst <;> simp [EdgeIn.rstN, h]

/-- Settles O10: the ports show the reset values with `cmd_ready` shut, and an edge at `rst_n = 0` is `edge_reset`. -/
theorem resetTakesOver : Obligations.ResetTakesOver := by
  intro s
  refine ⟨?_, State.atEdge_fallen, fun hlow => ?_, fun _ t ht => ?_⟩
  · simp only [State.outputs, Ebc.outputs, Bool.and_false, statusWord_reset, pincfgWord_reset,
      padBus_reset (out := PinCfg.padSel) rfl, padBus_reset (out := PinCfg.padOe) rfl,
      padBus_reset (out := PinCfg.padO) rfl, padBus_reset (out := PinCfg.padPu) rfl]
    rfl
  · have hr : s.input.rstN = false := (EdgeIn.rstN_eq_false_iff _).mpr hlow
    have hshut : s.cmdReady = false := by simp [State.cmdReady, hr]
    rcases step_cases s with ⟨hopen, _⟩ | ⟨_, hstep⟩
    · exact absurd (hshut.symm.trans hopen) Bool.false_ne_true
    · exact ⟨hshut, hstep.trans (edge_reset hr)⟩
  · obtain ⟨e, rfl⟩ := edge_advances ht
    rfl

section
variable (s : State) (e : Ebc)

/-- The device sees of the registers the pads alone (20_memory.md R55). -/
theorem devStep_of_pins (h : e.pincfg = s.ebc.pincfg) : ({ s with ebc := e } : State).devStep = s.devStep := by
  cases e
  subst h
  rfl

/-- So does what the EBC samples from a net. -/
theorem sample_of_pins (h : e.pincfg = s.ebc.pincfg) : ({ s with ebc := e } : State).sample = s.sample := by
  cases e
  subst h
  rfl

end

/-- Settles O58: the registers enter the edge through what it finds of them, which the fall has erased, and through the
pads. -/
theorem resetErasesTheRegisters : Obligations.ResetErasesTheRegisters := by
  intro s e hfell hpins
  set u : State := { s with ebc := e }
  have hfound : u.atEdge = s.atEdge :=
    (State.atEdge_fallen (s := u) hfell).trans (State.atEdge_fallen hfell).symm
  have hctx : u.ctx = s.ctx := by
    rw [State.ctx, State.ctx, sample_of_pins s e hpins]
    rfl
  have hadvance : u.advance = s.advance := by
    funext e'
    rw [State.advance, State.advance, devStep_of_pins s e hpins]
  have hinput : u.input = s.input := rfl
  rw [edge, edge, hinput, hfound, hctx, hadvance]

/-! ## The first edge after it (R191) -/

/-- Settles O59: the reset values are READY with no abort latched, so the edge is an abort's entry, an acceptance or a
waiting READY, and its opening changes nothing. -/
theorem firstEdgeAfterReset : Obligations.FirstEdgeAfterReset := by
  intro s hfound hr
  have hs : s.atEdge.seq = .ready := by rw [hfound]; rfl
  have hopen : s.atEdge.openEdge false = Ebc.reset := by rw [hfound]; rfl
  have hready (ha : s.input.abort = false) : s.cmdReady = true := (cmdReady_iff s).mpr ⟨hs, ha, hr⟩
  refine ⟨fun ha => ?_, hready, fun ha hv => ?_, fun ha hv => ?_⟩
  · rw [edge_abortEntry hr ha (by rw [hfound]; rfl), hfound]
    rfl
  · rw [edge_accepts (hready ha) hv, hopen]
  · rw [edge_waits hr ha hs hv, hopen]

/-! ## PREL against reset (R195) -/

/-- Settles O31: the teardown clears the registers of R195 but `CNT` and `ABORTING`, which the invariant has at their reset
values in READY already. -/
theorem prelReturnsToReset : Obligations.PrelReturnsToReset := by
  intro s hinv hu hs
  have haborting : s.ebc.aborting = false := by
    by_contra ha
    rcases hinv.ebc.abortingTears (Bool.eq_true_of_not_eq_false ha) with h | h <;> simp [hs] at h
  have hcnt : s.ebc.cnt = 0 := hinv.ebc.cntClear (by rw [hs]; rfl)
  obtain ⟨t, hexec, _, ht⟩ := prel_runs hu hs haborting
  exact ⟨t, hexec, by simp [ht, Ebc.released, Ebc.done, Ebc.reset, releasedPins, haborting, hcnt]⟩

end Sys2Proof.Machine
end
